-- ==== Sys2Proof/Word.lean ====
section
/-! DEFINITION. The byte and the 32-bit word of CORE, and addition modulo 2^32 (00_scope R9, R14, R15, R16). -/

namespace Sys2Proof

/-- A byte: 8 bits, unsigned (00_scope R14). -/
abbrev Byte := BitVec 8

/-- A word: an unsigned 32-bit quantity (00_scope R9). -/
abbrev Word := BitVec 32

/-- `add32(x, y) = (x + y) mod 2^32`; the carry is discarded (00_scope R16, 42 R132). -/
def add32 (x y : Word) : Word := x + y

end Sys2Proof
end

