-- ==== Sys2Proof/Config.lean ====
section
/-! DEFINITION. What an implementation of CORE fixes (`BUF_CAP`, the host's `EXIT_USAGE`) and the free values the spec
leaves open: the content of the scratch state after a reset at run time, and the length field of a padding too long for it. The opaque constants have no body: nothing can
be proved about them beyond the limits written here. -/

namespace Sys2Proof.Config

/-- The implementation's choice behind `BUF_CAP` (00_scope R10; assumption log 1). -/
opaque bufCapChoice : BitVec 61

/-- `BUF_CAP`, the capacity in bytes of each byte buffer: any number with `64 <= BUF_CAP < 2^61`, and every such number
is possible (00_scope R10; 92 D10; assumption log 1). -/
def bufCap : Nat := max 64 bufCapChoice.toNat

/-- The host's choice behind `EXIT_USAGE` (92 D31; assumption log 20). -/
opaque exitUsageChoice : Nat

/-- `EXIT_USAGE`, the nonzero exit status a host gives a usage error (92 D31; assumption log 20). -/
def exitUsage : Nat := exitUsageChoice + 1

/-- `WORK` after the `n`-th reset at run time, before the limit of 10_state R31 (10_state R39: unspecified; log 3). -/
opaque freeWork : Nat → List Byte

/-- `BLOCK[i]` after the `n`-th reset at run time (10_state R39: unspecified; log 3). -/
opaque freeBlock : Nat → Fin 64 → Byte

/-- `V[i]` after the `n`-th reset at run time (10_state R39: unspecified; log 3). -/
opaque freeV : Nat → Fin 8 → Word

/-- `W[i]` after the `n`-th reset at run time (10_state R39: unspecified; log 3). -/
opaque freeW : Nat → Fin 64 → Word

/-- `PRIOR` after the `n`-th reset at run time, a 64-bit register (10_state R39: unspecified; log 3). -/
opaque freePrior : Nat → BitVec 64

/-- `NBLK` after the `n`-th reset at run time, a 64-bit register (10_state R39: unspecified; log 3). -/
opaque freeNblk : Nat → BitVec 64

/-- `BLKIDX` after the `n`-th reset at run time, a 64-bit register (10_state R39: unspecified; log 3). -/
opaque freeBlkidx : Nat → BitVec 64

/-- `T` after the `n`-th reset at run time, within `0 <= T <= 64` (10_state R37, R39: unspecified; log 3). -/
opaque freeT : Nat → Fin 65

/-- The 8 bytes of `BE64bytes(v)` for `2^64 <= v`, where 00_scope R17 defines none (91 N10; log 22). -/
opaque freeLengthField : Nat → Vector Byte 8

end Sys2Proof.Config
end

