-- ==== Sys2Proof/Syntax.lean ====
section
/-! DEFINITION. The instructions of CORE: one constructor per row of spec/opcode_table.json. A row of format CMD is the
host's write of that word to register `CMD`; a row of format PHASE is the operation the sequencer performs in that phase;
a row of format REGW is the host's write of a value to that register. -/

namespace Sys2Proof

/-- The rows of spec/opcode_table.json, in its order. -/
inductive Instr where
  /-- `CMD = 0x00000001` (43 R147). -/
  | checksum
  /-- `CMD = 0x00000002` (44 R158). -/
  | genmac
  /-- `CMD = 0x00000004` (44 R159). -/
  | valmac
  /-- `CMD = 0x00000008` (45 R175). -/
  | attack
  /-- `CMD = 0x80000000`, the soft reset (46 R193). -/
  | srst
  /-- Phase `0000`: waits for a write to `CMD` (30 R77, 46 R189). -/
  | idle
  /-- Phase `0001`: decode `CMDREG` (46 R190). -/
  | decode
  /-- Phase `0010`: digest text to `DIN`, `KEYLEN` check (44 R156). -/
  | parse
  /-- Phase `0011`: glue, `PBC`, `OUT` (45 R174). -/
  | glue
  /-- Phase `0100`: fill `WORK`, set `PRIOR`, initialise `H` (43 R141). -/
  | load
  /-- Phase `0101`: length check, padding, invariant check (41 R112). -/
  | pad
  /-- Phase `0110`: next block to `BLOCK`, or leave the loop (43 R143). -/
  | fetch
  /-- Phase `0111`: build `W`, copy `H` to `V` (42 R126, R127). -/
  | sched
  /-- Phase `1000`: one round (42 R128). -/
  | round
  /-- Phase `1001`: add `V` into `H` (42 R129). -/
  | fold
  /-- Phase `1010`: end a command that met no error (46 R192). -/
  | finish
  /-- Phase `1111`: waits for a reset (60 R217). -/
  | fault
  /-- `HostWrite(0x03, value)`: append a byte to `KEY` (46 R186). -/
  | wrKeyPort (value : BitVec 64)
  /-- `HostWrite(0x04, value)`: append a byte to `MSG` (46 R186). -/
  | wrMsgPort (value : BitVec 64)
  /-- `HostWrite(0x05, value)`: append a byte to `SFX` (46 R186). -/
  | wrSfxPort (value : BitVec 64)
  /-- `HostWrite(0x06, value)`: append a byte to `DHEX` (46 R186). -/
  | wrDhexPort (value : BitVec 64)
  /-- `HostWrite(0x02, value)`: `KEYLEN <- value` (46 R187). -/
  | wrKeylen (value : BitVec 64)
  /-- `HostWrite(0x0C, value)`: `OUT_ADDR <- value` (46 R187). -/
  | wrOutAddr (value : BitVec 64)
deriving DecidableEq, Repr

end Sys2Proof
end

