-- ==== Sys2Proof/WellFormed.lean ====
section
/-! DEFINITION. Well-formed instructions: the value written to a byte port is a byte (30 R84: "the transaction is defined
only for values 0 to 255"). The other registers are as wide as the value carried. -/

namespace Sys2Proof

/-- The value fits an 8-bit port (30 R84). -/
def fitsPort (value : BitVec 64) : Bool := value.toNat < 256

/-- An instruction the register map of 30 R71 admits. -/
def Instr.wellFormed : Instr → Bool
  | .wrKeyPort value => fitsPort value
  | .wrMsgPort value => fitsPort value
  | .wrSfxPort value => fitsPort value
  | .wrDhexPort value => fitsPort value
  | .wrKeylen _ => true
  | .wrOutAddr _ => true
  | .checksum => true
  | .genmac => true
  | .valmac => true
  | .attack => true
  | .srst => true
  | .idle => true
  | .decode => true
  | .parse => true
  | .glue => true
  | .load => true
  | .pad => true
  | .fetch => true
  | .sched => true
  | .round => true
  | .fold => true
  | .finish => true
  | .fault => true

end Sys2Proof
end

