-- ==== Sys2Proof/Decode.lean ====
section
/-! DEFINITION. Encodings: the phase codes of 30 R77 and the register writes of 30 R71 with the command words of 30 R73.
The decoder is total and rejects by name; the encoder is written from the same tables. -/

namespace Sys2Proof

/-- What the machine decodes: a phase code, or the register number and value of a host write ("this hardware's
encoding of the program", 95 section 3). -/
inductive Encoded where
  | phase (code : BitVec 4)
  | write (reg : BitVec 8) (value : BitVec 64)
deriving DecidableEq, Repr

/-- Why an encoding is no row of the opcode table. -/
inductive Reject where
  /-- A phase code `1011` to `1110` (30 R77). -/
  | unusedPhase (code : BitVec 4)
  /-- A value written to `CMD` that is none of the five words (30 R74). It is accepted as a command issue. -/
  | illegalCommand (word : BitVec 32)
  /-- A write to a read-only register (30 R71, R85). It is ignored. -/
  | readOnlyRegister (reg : BitVec 8)
  /-- A write to a reserved register number (30 R85). It is ignored. -/
  | reservedRegister (reg : BitVec 8)
deriving DecidableEq, Repr

/-- The decoder's answer. -/
inductive Decoded where
  | instr (i : Instr)
  | reject (r : Reject)
deriving DecidableEq, Repr

/-! ### Register numbers (30 R71) -/

def regCmd : BitVec 8 := 0x00#8
def regStatus : BitVec 8 := 0x01#8
def regKeylen : BitVec 8 := 0x02#8
def regKeyPort : BitVec 8 := 0x03#8
def regMsgPort : BitVec 8 := 0x04#8
def regSfxPort : BitVec 8 := 0x05#8
def regDhexPort : BitVec 8 := 0x06#8
def regKeyLength : BitVec 8 := 0x07#8
def regMsgLength : BitVec 8 := 0x08#8
def regSfxLength : BitVec 8 := 0x09#8
def regDhexLength : BitVec 8 := 0x0A#8
def regOutLength : BitVec 8 := 0x0B#8
def regOutAddr : BitVec 8 := 0x0C#8
def regOutData : BitVec 8 := 0x0D#8
def regGlueOffset : BitVec 8 := 0x0E#8
def regGlueLength : BitVec 8 := 0x0F#8
/-- `H0`; `H0 + i` is `H[i]`. -/
def regH0 : BitVec 8 := 0x10#8
def regPbc : BitVec 8 := 0x18#8
/-- `DIGEST_HEX[0]`; `0x40 + k` is character `k`. -/
def regDigestHex : BitVec 8 := 0x40#8

/-! ### Command words (30 R73) -/

def wordChecksum : BitVec 32 := 0x00000001#32
def wordGenmac : BitVec 32 := 0x00000002#32
def wordValmac : BitVec 32 := 0x00000004#32
def wordAttack : BitVec 32 := 0x00000008#32
def wordSrst : BitVec 32 := 0x80000000#32

/-- The five legal command words, matched on all 32 bits; every other word is illegal (30 R73, R74). -/
def decodeCommand (word : BitVec 32) : Decoded :=
  if word = wordChecksum then .instr .checksum
  else if word = wordGenmac then .instr .genmac
  else if word = wordValmac then .instr .valmac
  else if word = wordAttack then .instr .attack
  else if word = wordSrst then .instr .srst
  else .reject (.illegalCommand word)

/-- A register number `0x19` to `0x3F` or `0x80` to `0xFF` (30 R85). -/
def isReserved (reg : BitVec 8) : Bool :=
  (0x19 ≤ reg.toNat && reg.toNat ≤ 0x3F) || 0x80 ≤ reg.toNat

/-- A host write by register number (30 R71). The command register takes the low 32 bits of the value (log 9). -/
def decodeWrite (reg : BitVec 8) (value : BitVec 64) : Decoded :=
  if reg = regCmd then decodeCommand (value.setWidth 32)
  else if reg = regKeylen then .instr (.wrKeylen value)
  else if reg = regKeyPort then .instr (.wrKeyPort value)
  else if reg = regMsgPort then .instr (.wrMsgPort value)
  else if reg = regSfxPort then .instr (.wrSfxPort value)
  else if reg = regDhexPort then .instr (.wrDhexPort value)
  else if reg = regOutAddr then .instr (.wrOutAddr value)
  else if isReserved reg then .reject (.reservedRegister reg)
  else .reject (.readOnlyRegister reg)

/-- A phase code (30 R77). -/
def decodePhase (code : BitVec 4) : Decoded :=
  if code = 0b0000#4 then .instr .idle
  else if code = 0b0001#4 then .instr .decode
  else if code = 0b0010#4 then .instr .parse
  else if code = 0b0011#4 then .instr .glue
  else if code = 0b0100#4 then .instr .load
  else if code = 0b0101#4 then .instr .pad
  else if code = 0b0110#4 then .instr .fetch
  else if code = 0b0111#4 then .instr .sched
  else if code = 0b1000#4 then .instr .round
  else if code = 0b1001#4 then .instr .fold
  else if code = 0b1010#4 then .instr .finish
  else if code = 0b1111#4 then .instr .fault
  else .reject (.unusedPhase code)

/-- The decoder, total on every encoding. -/
def decode : Encoded → Decoded
  | .phase code => decodePhase code
  | .write reg value => decodeWrite reg value

/-- The encoder, from the tables of 30 R71, R73 and R77. -/
def encode : Instr → Encoded
  | .checksum => .write 0x00#8 0x00000001#64
  | .genmac => .write 0x00#8 0x00000002#64
  | .valmac => .write 0x00#8 0x00000004#64
  | .attack => .write 0x00#8 0x00000008#64
  | .srst => .write 0x00#8 0x80000000#64
  | .idle => .phase 0b0000#4
  | .decode => .phase 0b0001#4
  | .parse => .phase 0b0010#4
  | .glue => .phase 0b0011#4
  | .load => .phase 0b0100#4
  | .pad => .phase 0b0101#4
  | .fetch => .phase 0b0110#4
  | .sched => .phase 0b0111#4
  | .round => .phase 0b1000#4
  | .fold => .phase 0b1001#4
  | .finish => .phase 0b1010#4
  | .fault => .phase 0b1111#4
  | .wrKeyPort value => .write 0x03#8 value
  | .wrMsgPort value => .write 0x04#8 value
  | .wrSfxPort value => .write 0x05#8 value
  | .wrDhexPort value => .write 0x06#8 value
  | .wrKeylen value => .write 0x02#8 value
  | .wrOutAddr value => .write 0x0C#8 value

/-- The width in bits of a register the host writes (30 R71); 64 where a write is ignored. -/
def writeWidth (reg : BitVec 8) : Nat :=
  if reg = regCmd then 32
  else if reg = regKeyPort ∨ reg = regMsgPort ∨ reg = regSfxPort ∨ reg = regDhexPort then 8
  else 64

/-- The value fits the register it is written to ("`value` has the width of that register", 46 R185). -/
def Encoded.fits : Encoded → Bool
  | .phase _ => true
  | .write reg value => value.toNat < 2 ^ writeWidth reg

/-- The encoding that spec/opcode_table.json's bits `w` of a row of `nbits` bits stand for (log 15): 32 bits are a word
written to `CMD`; 8 bits are the register number of a write of value 0 where they are a REGW row, else a phase code, as
fewer bits are. -/
def tableEncoded (nbits w : Nat) : Encoded :=
  if nbits = 32 then .write regCmd (BitVec.ofNat 64 w)
  else if nbits = 8 ∧ (w = 0x02 ∨ w = 0x03 ∨ w = 0x04 ∨ w = 0x05 ∨ w = 0x06 ∨ w = 0x0C) then
    .write (BitVec.ofNat 8 w) 0#64
  else if nbits ≤ 8 ∧ w < 16 then .phase (BitVec.ofNat 4 w)
  else .write (BitVec.ofNat 8 w) 0#64

/-- The instruction the decoder reads from the opcode table's bits. -/
def decodeTableWord (nbits w : Nat) : Option Instr :=
  match decode (tableEncoded nbits w) with
  | .instr i => some i
  | .reject _ => none

end Sys2Proof
end

