-- ==== Sys2Proof/Machine/State.lean ====
section
/-! DEFINITION. The state of CORE as plain data (10_state), the reasons a step stops, and the state after reset. -/

namespace Sys2Proof.Machine

/-- The twelve values of `PHASE` (10_state R36, 30 R77). -/
inductive Phase where
  | idle | decode | parse | glue | load | pad | fetch | sched | round | fold | finish | fault
deriving DecidableEq, Repr

/-- The values of `MODE`: one of the four one-hot masks, or `0000` (10_state R34). -/
inductive Mode where
  | none | checksum | genmac | valmac | attack
deriving DecidableEq, Repr

/-- The values of `ERR`: 0 to 4; 5 to 15 are never produced (30 R76, 93 U8). -/
inductive ErrorCode where
  | none
  /-- 1, non-fatal (60 R211). -/
  | usageError
  /-- 2, fatal (60 R212). -/
  | allocationFailure
  /-- 3, fatal (60 R213). -/
  | internalInvariantViolation
  /-- 4, non-fatal (60 R214). -/
  | lengthOverflow
deriving DecidableEq, Repr

/-- A byte buffer: the bytes `B[0] .. B[len(B)-1]`, front first (10_state R31, 20 R50). -/
abbrev Buffer := List Byte

/-- What the host does next (46 R185; log 5). -/
inductive HostAction where
  /-- `HostWrite(reg, value)`. -/
  | write (reg : BitVec 8) (value : BitVec 64)
  /-- `HostRead(reg)`. -/
  | read (reg : BitVec 8)
  /-- The hard reset input (70 R240). -/
  | hardReset
  /-- The host presents nothing for one step. -/
  | pause
deriving DecidableEq, Repr

/-- A completed `HostRead`: the register and the value returned (46 R185). -/
structure Reply where
  reg : BitVec 8
  value : BitVec 64
deriving DecidableEq, Repr

/-- The state of CORE. Every field but the last three is the spec's (INVENTORY.md, State). -/
structure State where
  /-- `PHASE` (10_state R36). -/
  phase : Phase
  /-- `BUSY` (10_state R35). -/
  busy : Bool
  /-- `DONE` (10_state R35). -/
  done : Bool
  /-- `MATCH` (10_state R35). -/
  matched : Bool
  /-- `FATAL` (10_state R35). -/
  fatal : Bool
  /-- `ERR` (10_state R35). -/
  err : ErrorCode
  /-- `MODE` (10_state R34). -/
  mode : Mode
  /-- `DVALID` (10_state R35). -/
  dvalid : Bool
  /-- `OVALID` (10_state R35). -/
  ovalid : Bool
  /-- `CMDREG` (10_state R34). -/
  cmdreg : BitVec 32
  /-- `KEYLEN` (10_state R32). -/
  keylen : BitVec 64
  /-- `KEY` (10_state R28). -/
  key : Buffer
  /-- `MSG` (10_state R28). -/
  msg : Buffer
  /-- `SFX` (10_state R28). -/
  sfx : Buffer
  /-- `DHEX` (10_state R28). -/
  dhex : Buffer
  /-- `WORK` (10_state R29). -/
  work : Buffer
  /-- `OUT` (10_state R30). -/
  out : Buffer
  /-- `BLOCK[0..63]` (10_state R23). -/
  block : Vector Byte 64
  /-- `H[0..7]` (10_state R20). -/
  h : Vector Word 8
  /-- `V[0..7]` (10_state R21). -/
  v : Vector Word 8
  /-- `W[0..63]` (10_state R22). -/
  w : Vector Word 64
  /-- `DIN[0..7]` (10_state R24). -/
  din : Vector Word 8
  /-- `PRIOR` (10_state R33). -/
  prior : Nat
  /-- `PBC` (10_state R33). -/
  pbc : Nat
  /-- `NBLK` (10_state R33). -/
  nblk : Nat
  /-- `BLKIDX` (10_state R33). -/
  blkidx : Nat
  /-- `GLUE_OFF` (10_state R33). -/
  glueOff : Nat
  /-- `GLUE_LEN` (10_state R33). -/
  glueLen : Nat
  /-- `OUT_ADDR` (10_state R33). -/
  outAddr : BitVec 64
  /-- `T`, `0 <= T <= 64` (10_state R37). -/
  t : Fin 65
  /-- The model's own: the host's coming actions, oldest first (log 5). -/
  pending : List HostAction
  /-- The model's own: the values reads have returned, newest first (log 8). -/
  replies : List Reply
  /-- The model's own: the counter handed to the free values (log 3). -/
  fresh : Nat
deriving DecidableEq, Repr

/-- Reasons to stop where the spec gives an access no meaning. All are safe: the machine stops where no rule says what
happens, and `State.Inv` rules each of them out (log 13). -/
inductive Fault where
  /-- FETCH would read bytes of `WORK` that do not exist (00_scope R17: `MemRead` requires `addr + n <= len(B)`).
  Raised by FETCH; safe. -/
  | readBeyondWork
  /-- ROUND at `T = 64` would read `W[64]` and `K[64]`, which do not exist (42 R128). Raised by ROUND; safe. -/
  | roundIndexOutOfRange
  /-- LOAD with `MODE = 0000`, for which the rule has no case (43 R141). Raised by LOAD; safe. -/
  | loadWithoutMode
  /-- A phase code `1011` to `1110`, "unused and unreachable" (30 R77). Raised by step; safe. -/
  | unusedPhaseCode
deriving DecidableEq, Repr

/-- Refusals: an instruction without a meaning. -/
inductive Refusal where
  /-- An arm of exec that has no meaning yet, by its mnemonic. Raised by exec; safe. No arm uses it. -/
  | notModelled (mnemonic : String)
deriving DecidableEq, Repr

/-- The machine right after reset (10_state R39, 70 R241). The fields the rule leaves unspecified (`WORK`, `BLOCK`, `V`,
`W`, `PRIOR`, `NBLK`, `BLKIDX`, `T`) hold a named value here: DESIGN CHOICE zero or empty, unsafe (log 2). -/
def State.reset : State where
  phase := .idle
  busy := false
  done := false
  matched := false
  fatal := false
  err := .none
  mode := .none
  dvalid := false
  ovalid := false
  cmdreg := 0#32
  keylen := 0#64
  key := []
  msg := []
  sfx := []
  dhex := []
  work := []
  out := []
  block := Vector.replicate 64 0#8
  h := Vector.replicate 8 0#32
  v := Vector.replicate 8 0#32
  w := Vector.replicate 64 0#32
  din := Vector.replicate 8 0#32
  prior := 0
  pbc := 0
  nblk := 0
  blkidx := 0
  glueOff := 0
  glueLen := 0
  outAddr := 0#64
  t := 0
  pending := []
  replies := []
  fresh := 0

end Sys2Proof.Machine
end

