-- ==== Sys2Proof/Machine/Flags.lean ====
section
/-! DEFINITION. The codes of `MODE` and `ERR`, the status word, and the comparison that sets `MATCH` (10_state R34, R35;
30 R75, R76; 44 R160). -/

namespace Sys2Proof.Machine

/-- The mode mask of `STATUS[11:8]` (10_state R34). -/
def modeBits : Mode → BitVec 4
  | .none => 0b0000#4
  | .checksum => 0b0001#4
  | .genmac => 0b0010#4
  | .valmac => 0b0100#4
  | .attack => 0b1000#4

/-- The code of `STATUS[7:4]` (30 R76). -/
def errorBits : ErrorCode → BitVec 4
  | .none => 0#4
  | .usageError => 1#4
  | .allocationFailure => 2#4
  | .internalInvariantViolation => 3#4
  | .lengthOverflow => 4#4

/-- Which errors are fatal (30 R76). -/
def isFatal : ErrorCode → Bool
  | .none => false
  | .usageError => false
  | .allocationFailure => true
  | .internalInvariantViolation => true
  | .lengthOverflow => false

/-- The status word (30 R75). -/
def statusWord (s : State) : BitVec 32 :=
  0#18 ++ BitVec.ofBool s.ovalid ++ BitVec.ofBool s.dvalid ++ modeBits s.mode ++ errorBits s.err ++
    BitVec.ofBool s.fatal ++ BitVec.ofBool s.matched ++ BitVec.ofBool s.done ++ BitVec.ofBool s.busy

/-- `Equal8(X, Y)`: all 8 words are equal (44 R160). -/
def equal8 (x y : Vector Word 8) : Bool := (List.finRange 8).all fun i => x[i] == y[i]

/-- The phases in which a command runs: neither `IDLE` nor `FAULT` (10_state R36). -/
def phaseIsBusy : Phase → Bool
  | .idle => false
  | .decode => true
  | .parse => true
  | .glue => true
  | .load => true
  | .pad => true
  | .fetch => true
  | .sched => true
  | .round => true
  | .fold => true
  | .finish => true
  | .fault => false

/-- The 4-bit code of a phase (30 R77). -/
def phaseCode : Phase → BitVec 4
  | .idle => 0b0000#4
  | .decode => 0b0001#4
  | .parse => 0b0010#4
  | .glue => 0b0011#4
  | .load => 0b0100#4
  | .pad => 0b0101#4
  | .fetch => 0b0110#4
  | .sched => 0b0111#4
  | .round => 0b1000#4
  | .fold => 0b1001#4
  | .finish => 0b1010#4
  | .fault => 0b1111#4

/-- The phase of a code, none for the unused ones (30 R77). -/
def phaseOfCode (code : BitVec 4) : Option Phase :=
  if code = 0b0000#4 then some .idle
  else if code = 0b0001#4 then some .decode
  else if code = 0b0010#4 then some .parse
  else if code = 0b0011#4 then some .glue
  else if code = 0b0100#4 then some .load
  else if code = 0b0101#4 then some .pad
  else if code = 0b0110#4 then some .fetch
  else if code = 0b0111#4 then some .sched
  else if code = 0b1000#4 then some .round
  else if code = 0b1001#4 then some .fold
  else if code = 0b1010#4 then some .finish
  else if code = 0b1111#4 then some .fault
  else none

end Sys2Proof.Machine
end

