-- ==== Sys2Proof/Machine/Sha.lean ====
section
/-! DEFINITION. The compression engine as functions: the logical functions, the constants, the message schedule, the
round and the feed-forward (00_scope R16, R17; 42 R120 to R130). -/

namespace Sys2Proof.Machine

/-- `ROTR(x, n)`, `0 < n < 32` (00_scope R16). -/
def rotr (x : Word) (n : Nat) : Word := (x >>> n) ||| (x <<< (32 - n))

/-- `SHR(x, n)`, zero fill (00_scope R16). -/
def shr (x : Word) (n : Nat) : Word := x >>> n

/-- `not32(x) = 0xFFFFFFFF - x` (00_scope R16). -/
def not32 (x : Word) : Word := 0xFFFFFFFF#32 - x

/-- `σ0` (42 R121). -/
def smallSigma0 (x : Word) : Word := rotr x 7 ^^^ rotr x 18 ^^^ shr x 3

/-- `σ1` (42 R121). -/
def smallSigma1 (x : Word) : Word := rotr x 17 ^^^ rotr x 19 ^^^ shr x 10

/-- `Σ0` (42 R122). -/
def bigSigma0 (x : Word) : Word := rotr x 2 ^^^ rotr x 13 ^^^ rotr x 22

/-- `Σ1` (42 R122). -/
def bigSigma1 (x : Word) : Word := rotr x 6 ^^^ rotr x 11 ^^^ rotr x 25

/-- `Ch` (42 R123). -/
def ch (x y z : Word) : Word := (x &&& y) ^^^ (not32 x &&& z)

/-- `Maj` (42 R123). -/
def maj (x y z : Word) : Word := (x &&& y) ^^^ (x &&& z) ^^^ (y &&& z)

/-- `K[0..15]` (42 R124). -/
def roundConstantsA : List Word :=
  [0x428a2f98#32, 0x71374491#32, 0xb5c0fbcf#32, 0xe9b5dba5#32,
   0x3956c25b#32, 0x59f111f1#32, 0x923f82a4#32, 0xab1c5ed5#32,
   0xd807aa98#32, 0x12835b01#32, 0x243185be#32, 0x550c7dc3#32,
   0x72be5d74#32, 0x80deb1fe#32, 0x9bdc06a7#32, 0xc19bf174#32]

/-- `K[16..31]` (42 R124). -/
def roundConstantsB : List Word :=
  [0xe49b69c1#32, 0xefbe4786#32, 0x0fc19dc6#32, 0x240ca1cc#32,
   0x2de92c6f#32, 0x4a7484aa#32, 0x5cb0a9dc#32, 0x76f988da#32,
   0x983e5152#32, 0xa831c66d#32, 0xb00327c8#32, 0xbf597fc7#32,
   0xc6e00bf3#32, 0xd5a79147#32, 0x06ca6351#32, 0x14292967#32]

/-- `K[32..47]` (42 R124). -/
def roundConstantsC : List Word :=
  [0x27b70a85#32, 0x2e1b2138#32, 0x4d2c6dfc#32, 0x53380d13#32,
   0x650a7354#32, 0x766a0abb#32, 0x81c2c92e#32, 0x92722c85#32,
   0xa2bfe8a1#32, 0xa81a664b#32, 0xc24b8b70#32, 0xc76c51a3#32,
   0xd192e819#32, 0xd6990624#32, 0xf40e3585#32, 0x106aa070#32]

/-- `K[48..63]` (42 R124). -/
def roundConstantsD : List Word :=
  [0x19a4c116#32, 0x1e376c08#32, 0x2748774c#32, 0x34b0bcb5#32,
   0x391c0cb3#32, 0x4ed8aa4a#32, 0x5b9cca4f#32, 0x682e6ff3#32,
   0x748f82ee#32, 0x78a5636f#32, 0x84c87814#32, 0x8cc70208#32,
   0x90befffa#32, 0xa4506ceb#32, 0xbef9a3f7#32, 0xc67178f2#32]

/-- The round constants `K[0..63]`, read-only (10_state R25, 42 R124). -/
def roundConstants : List Word :=
  roundConstantsA ++ (roundConstantsB ++ (roundConstantsC ++ roundConstantsD))

/-- `K[t]`. -/
def roundConstant (t : Nat) : Word := roundConstants.getD t 0#32

/-- `IV[0..7]`, read-only (10_state R26, 42 R125). -/
def initialValue : Vector Word 8 :=
  #v[0x6a09e667#32, 0xbb67ae85#32, 0x3c6ef372#32, 0xa54ff53a#32,
     0x510e527f#32, 0x9b05688c#32, 0x1f83d9ab#32, 0x5be0cd19#32]

/-- `BE32(b0, b1, b2, b3)`: the first byte is the most significant (00_scope R17, 20 R51). -/
def be32 (b0 b1 b2 b3 : Byte) : Word := b0 ++ b1 ++ b2 ++ b3

/-- Word `j` of a block, `0 <= j <= 15` (20 R51, 30 R78). -/
def blockWord (block : Vector Byte 64) (j : Fin 16) : Word :=
  be32 block[4 * j.val] block[4 * j.val + 1] block[4 * j.val + 2] block[4 * j.val + 3]

/-- `W[j]` from the entries below it, for `j` the number of these and `j >= 16` (42 R126). -/
def nextScheduleWord (ws : List Word) : Word :=
  let j := ws.length
  add32 (add32 (add32 (smallSigma1 (ws.getD (j - 2) 0#32)) (ws.getD (j - 7) 0#32))
    (smallSigma0 (ws.getD (j - 15) 0#32))) (ws.getD (j - 16) 0#32)

/-- `n` further entries of the schedule, in upward order (42 R126). -/
def extendSchedule : Nat → List Word → List Word
  | 0, ws => ws
  | n + 1, ws => extendSchedule n (ws ++ [nextScheduleWord ws])

/-- `W[0..63]` as a list: the block's 16 words, then 48 derived ones (42 R126). -/
def scheduleList (block : Vector Byte 64) : List Word :=
  extendSchedule 48 (List.ofFn (blockWord block))

/-- The message schedule of a block, SCHED's first half (42 R126). -/
def schedule (block : Vector Byte 64) : Vector Word 64 :=
  Vector.ofFn fun j => (scheduleList block).getD j.val 0#32

/-- One round on the working variables `a..h = V[0..7]` with schedule word `wt` and constant `kt` (42 R128). -/
def roundStep (v : Vector Word 8) (wt kt : Word) : Vector Word 8 :=
  let t1 := add32 (add32 (add32 (add32 v[7] (bigSigma1 v[4])) (ch v[4] v[5] v[6])) kt) wt
  let t2 := add32 (bigSigma0 v[0]) (maj v[0] v[1] v[2])
  #v[add32 t1 t2, v[0], v[1], v[2], add32 v[3] t1, v[4], v[5], v[6]]

/-- The first `n` rounds, in upward order (42 R128, R130). -/
def roundsUpTo (w : Vector Word 64) (v : Vector Word 8) : Nat → Vector Word 8
  | 0 => v
  | n + 1 => roundStep (roundsUpTo w v n) (w.toList.getD n 0#32) (roundConstant n)

/-- The feed-forward: elementwise addition, each wrapping by itself (42 R129). -/
def feedForward (h v : Vector Word 8) : Vector Word 8 := Vector.ofFn fun i => add32 h[i] v[i]

/-- `compress(cv, block)` (42 R120, R130). -/
def compress (cv : Vector Word 8) (block : Vector Byte 64) : Vector Word 8 :=
  feedForward cv (roundsUpTo (schedule block) cv 64)

end Sys2Proof.Machine
end

