-- ==== Sys2Proof/Machine/Operands.lean ====
section
/-! DEFINITION. How operands are assembled: byte order, padding, glue, the hash over a padded message, hexadecimal digest
text (30 sections 6 and 7; 41 R110, R111, R114; 43 R140; 44 R155, R157; 45 R172). -/

namespace Sys2Proof.Machine

/-- The 8 bytes of a number below `2^64`, the first most significant. -/
def lengthFieldBytes (v : Nat) : List Byte :=
  [BitVec.ofNat 8 (v / 2 ^ 56), BitVec.ofNat 8 (v / 2 ^ 48), BitVec.ofNat 8 (v / 2 ^ 40), BitVec.ofNat 8 (v / 2 ^ 32),
   BitVec.ofNat 8 (v / 2 ^ 24), BitVec.ofNat 8 (v / 2 ^ 16), BitVec.ofNat 8 (v / 2 ^ 8), BitVec.ofNat 8 v]

/-- `BE64bytes(v)`: the 8 bytes of `v < 2^64`, the first most significant (00_scope R17, 20 R52). For a larger `v` the
rules define no bytes, and 91 N10 says not to assume that they wrap: DESIGN CHOICE, eight free bytes there, so that
`padBytes`, `glueBytes` and `hash` are total (log 22). No step reaches it: GLUE and PAD raise LengthOverflow first. -/
def be64Bytes (v : Nat) : List Byte :=
  if v < 2 ^ 64 then lengthFieldBytes v else (Config.freeLengthField v).toList

/-- `ZeroCount(base)` for `base = length mod 64` (41 R111). -/
def zeroCount (base : Nat) : Nat := if base ≤ 55 then 55 - base else 119 - base

/-- `PadBytes(baseLen, totalLen)` (41 R110, 30 R79). -/
def padBytes (baseLen totalLen : Nat) : List Byte :=
  0x80#8 :: (List.replicate (zeroCount (baseLen % 64)) 0x00#8 ++ be64Bytes (8 * totalLen))

/-- The total length that no longer fits the padding's length field (43 R142, 00_scope R11). -/
abbrev lengthLimit : Nat := 2 ^ 61

/-- `Glue(T) = PadBytes(T, T)` (45 R172). -/
def glueBytes (total : Nat) : List Byte := padBytes total total

/-- `PriorBlockCount(T)` (45 R172). -/
def priorBlockCount (total : Nat) : Nat := (total + (glueBytes total).length) / 64

/-- `MemRead(B, addr, 64)` as a block, where the bytes exist (00_scope R17, 43 R143). -/
def readBlock (b : Buffer) (addr : Nat) : Option (Vector Byte 64) :=
  if addr + 64 ≤ b.length then some (Vector.ofFn fun i => b.getD (addr + i.val) 0#8) else none

/-- Block `i` of a padded message (43 R140). -/
def messageBlock (p : Buffer) (i : Nat) : Vector Byte 64 := Vector.ofFn fun k => p.getD (64 * i + k.val) 0#8

/-- The chaining value after the first `n` blocks of `p`, taken in index order (43 R140, R144). -/
def hashBlocks (p : Buffer) (cv : Vector Word 8) : Nat → Vector Word 8
  | 0 => cv
  | n + 1 => compress (hashBlocks p cv n) (messageBlock p n)

/-- The padded message (43 R140). -/
def padded (message : Buffer) (prior : Nat) : Buffer := message ++ padBytes message.length (message.length + prior)

/-- `hash(message, prior, cv0)`, `prior` in bytes (43 R140, 41 R116). The rule defines it for `len(message) + prior < 2^61`;
beyond, DESIGN CHOICE: the same formula with a free length field (log 22). -/
def hash (message : Buffer) (prior : Nat) (cv : Vector Word 8) : Vector Word 8 :=
  hashBlocks (padded message prior) cv ((padded message prior).length / 64)

/-- The value of a hexadecimal character, none for "a non-hex character" (30 R81). -/
def hexValue (c : Byte) : Option Nat :=
  if 0x30 ≤ c.toNat ∧ c.toNat ≤ 0x39 then some (c.toNat - 0x30)
  else if 0x61 ≤ c.toNat ∧ c.toNat ≤ 0x66 then some (c.toNat - 0x57)
  else if 0x41 ≤ c.toNat ∧ c.toNat ≤ 0x46 then some (c.toNat - 0x37)
  else none

/-- The number a group of hexadecimal characters spells, first character most significant (44 R155, 20 R53). -/
def hexNumber (s : List Byte) : Nat := s.foldl (fun acc c => acc * 16 + (hexValue c).getD 0) 0

/-- `ParseDigest(S)`: 8 words, or none where malformed (44 R155). -/
def parseDigest (s : Buffer) : Option (Vector Word 8) :=
  if s.length ≠ 64 then none
  else if s.all (fun c => (hexValue c).isSome) then
    some (Vector.ofFn fun i => BitVec.ofNat 32 (hexNumber ((s.drop (8 * i.val)).take 8)))
  else none

/-- The lower-case hexadecimal character of a digit below 16 (30 R80, R81). -/
def hexChar (d : Nat) : Byte := BitVec.ofNat 8 (if d ≤ 9 then 0x30 + d else 0x57 + d)

/-- Character `k` of the text of a digest: the digit of nibble `31 - 4*(k mod 8) : 28 - 4*(k mod 8)` of word `k div 8`
(30 R80). -/
def digestChar (d : Vector Word 8) (k : Nat) : Byte :=
  hexChar ((d.toList.getD (k / 8) 0#32).toNat / 2 ^ (28 - 4 * (k % 8)) % 16)

/-- `RenderDigest(D)`: 64 lower-case characters (44 R157, 30 R80). -/
def renderDigest (d : Vector Word 8) : List Byte := (List.range 64).map (digestChar d)

end Sys2Proof.Machine
end

