-- ==== Sys2Proof/Machine/Ops.lean ====
section
/-! DEFINITION. The named operations on buffers and registers; taking an error (non-fatal and fatal entry) and the reset
that returns from a fatal one; command issue; the hold rule (40 R100 to R105; 60 R216, R217; 70 R241; 46 R186 to R189,
R193, R196). -/

namespace Sys2Proof.Machine

/-- What a meaning answers. -/
abbrev Result := Host.Outcome State Fault Refusal

/-! ### Buffers -/

/-- A length a buffer may have: at most `BUF_CAP` (10_state R31). The first test is implied by the second, since
`64 <= BUF_CAP`; it lets small buffers be decided without the value of `BUF_CAP`. -/
def fitsBuffer (n : Nat) : Bool := decide (n ≤ 64) || decide (n ≤ Config.bufCap)

/-- `append(B, X)`; none is AllocationFailure, with nothing written (40 R100, R103). -/
def append (b x : Buffer) : Option Buffer := if fitsBuffer (b.length + x.length) then some (b ++ x) else none

/-- `prepend(B, X)`; none is AllocationFailure, with nothing moved (40 R101, R103). -/
def prepend (b x : Buffer) : Option Buffer := if fitsBuffer (b.length + x.length) then some (x ++ b) else none

/-- The input buffers the host appends to (10_state R28). -/
inductive InputBuffer where
  | key | msg | sfx | dhex
deriving DecidableEq, Repr

/-- The buffer of a port. -/
def inputOf (p : InputBuffer) (s : State) : Buffer :=
  match p with
  | .key => s.key
  | .msg => s.msg
  | .sfx => s.sfx
  | .dhex => s.dhex

/-- `s` with the buffer of a port replaced. -/
def setInput (p : InputBuffer) (b : Buffer) (s : State) : State :=
  match p with
  | .key => { s with key := b }
  | .msg => { s with msg := b }
  | .sfx => { s with sfx := b }
  | .dhex => { s with dhex := b }

/-- The register number of a port (30 R71). -/
def portOf (p : InputBuffer) : BitVec 8 :=
  match p with
  | .key => regKeyPort
  | .msg => regMsgPort
  | .sfx => regSfxPort
  | .dhex => regDhexPort

/-- `clear(KEY); clear(MSG); clear(SFX); clear(DHEX); KEYLEN <- 0`, done by every termination (46 R192, 60 R216, R217). -/
def clearInputs (s : State) : State := { s with key := [], msg := [], sfx := [], dhex := [], keylen := 0#64 }

/-- `clear(OUT); GLUE_OFF <- 0; GLUE_LEN <- 0; PBC <- 0` (46 R189, 60 R216, R217). -/
def clearAttackResults (s : State) : State := { s with out := [], glueOff := 0, glueLen := 0, pbc := 0 }

/-! ### Taking an error -/

/-- Non-fatal error entry, one step: the error is recorded, results and inputs are cleared, and the sequencer becomes
idle. `MODE`, `H`, `DIN`, `WORK` keep what they hold (60 R216; log 12). DESIGN CHOICE: so do `V`, `W`, `BLOCK`, `PRIOR`,
`NBLK`, `BLKIDX`, `T`, which 93 U4 leaves open between commands (log 23). -/
def enterNonFatal (e : ErrorCode) (s : State) : State :=
  { clearInputs (clearAttackResults s) with
    err := e, done := false, matched := false, dvalid := false, ovalid := false, busy := false, phase := .idle }

/-- Fatal error entry, one step: as the non-fatal one, with `FATAL` set and the phase `FAULT` (60 R217; log 12). DESIGN
CHOICE: `V`, `W`, `BLOCK`, `PRIOR`, `NBLK`, `BLKIDX`, `T` keep what they hold (93 U4; log 23). -/
def enterFatal (e : ErrorCode) (s : State) : State :=
  { clearInputs (clearAttackResults s) with
    err := e, fatal := true, done := false, matched := false, dvalid := false, ovalid := false, busy := false,
    phase := .fault }

/-- `raise e` (00_scope R18; 30 R76; 60 R216, R217). -/
def raiseError (e : ErrorCode) (s : State) : State := if isFatal e then enterFatal e s else enterNonFatal e s

/-- The effect of a reset at run time, hard or soft (70 R241, 10_state R39): what the rule gives a value takes it; what it
leaves unspecified takes free values (log 3). The host's coming actions and what it has read are not CORE's and stay. -/
def applyReset (s : State) : State :=
  { State.reset with
    work := (Config.freeWork s.fresh).take Config.bufCap
    block := Vector.ofFn (Config.freeBlock s.fresh)
    v := Vector.ofFn (Config.freeV s.fresh)
    w := Vector.ofFn (Config.freeW s.fresh)
    prior := (Config.freePrior s.fresh).toNat
    nblk := (Config.freeNblk s.fresh).toNat
    blkidx := (Config.freeBlkidx s.fresh).toNat
    t := Config.freeT s.fresh
    pending := s.pending
    replies := s.replies
    fresh := s.fresh + 1 }

/-! ### Host writes -/

/-- A held transaction: it has no effect and stays the host's next one (46 R188; log 14). -/
def holdWrite (reg : BitVec 8) (value : BitVec 64) (s : State) : State :=
  { s with pending := .write reg value :: s.pending }

/-- Command issue (46 R189): `H`, `DIN`, `OUT_ADDR`, `KEYLEN` and the input buffers are not touched. DESIGN CHOICE: neither
are `WORK`, `V`, `W`, `BLOCK`, `PRIOR`, `NBLK`, `BLKIDX`, `T`, which 93 U4 leaves open between commands (log 23). -/
def issueCommand (word : BitVec 32) (s : State) : State :=
  { clearAttackResults s with
    cmdreg := word, busy := true, done := false, matched := false, err := .none, dvalid := false, ovalid := false,
    mode := .none, phase := .decode }

/-- `HostWrite(CMD, word)`: held while `BUSY` (46 R188), `SRST` resets in `IDLE` and `FAULT` (46 R193), every other word is
ignored in `FAULT` (46 R196) and issues a command otherwise, legal or not (46 R189, 30 R74). -/
def writeCommand (word : BitVec 32) (s : State) : State :=
  if s.busy then holdWrite regCmd (word.setWidth 64) s
  else if word = wordSrst then applyReset s
  else if s.phase = .fault then s
  else issueCommand word s

/-- `HostWrite(P, value)` for a byte port: held while `BUSY` (46 R188), ignored in `FAULT` (46 R196), otherwise the low 8
bits of the value are appended, or AllocationFailure is taken and the byte is not stored (46 R186, 30 R84; log 9). -/
def writePort (p : InputBuffer) (value : BitVec 64) (s : State) : State :=
  if s.busy then holdWrite (portOf p) value s
  else if s.phase = .fault then s
  else
    match append (inputOf p s) [value.setWidth 8] with
    | some b => setInput p b s
    | none => raiseError .allocationFailure s

/-- A write that changes no state once it is not held: to a read-only or a reserved register (30 R85). -/
def writeIgnored (reg : BitVec 8) (value : BitVec 64) (s : State) : State := if s.busy then holdWrite reg value s else s

/-- The well-formedness of CORE's memory, its six buffers (10_state R31: "Every buffer obeys `len(B) <= BUF_CAP` at all
times"). A list of bytes has no second way to write the same content. -/
abbrev Memory.wf (s : State) : Prop :=
  s.key.length ≤ Config.bufCap ∧ s.msg.length ≤ Config.bufCap ∧ s.sfx.length ≤ Config.bufCap ∧
    s.dhex.length ≤ Config.bufCap ∧ s.work.length ≤ Config.bufCap ∧ s.out.length ≤ Config.bufCap

/-- A buffer as address and byte pairs: its own address space, addresses `0 .. len(B)-1` rising (20 R50). -/
def bufferCells (b : Buffer) : List Host.Cell := b.zipIdx.map fun c => (c.2, c.1)

end Sys2Proof.Machine
end

