-- ==== Sys2Proof/Machine/Commands.lean ====
section
/-! DEFINITION. The rows of format CMD: the host's writes of the five legal command words (30 R73; 43 R147; 44 R158, R159;
45 R175; 46 R189, R193). The write issues the command; the phases of Machine/Phases.lean carry it out. -/

namespace Sys2Proof.Machine

/-- `CMD CHECKSUM` (43 R147): issue with word `0x00000001`. -/
def execChecksum (s : State) : Result := .next (writeCommand wordChecksum s)

/-- `CMD GENMAC` (44 R158): issue with word `0x00000002`. -/
def execGenmac (s : State) : Result := .next (writeCommand wordGenmac s)

/-- `CMD VALMAC` (44 R159): issue with word `0x00000004`. -/
def execValmac (s : State) : Result := .next (writeCommand wordValmac s)

/-- `CMD ATTACK` (45 R175): issue with word `0x00000008`. -/
def execAttack (s : State) : Result := .next (writeCommand wordAttack s)

/-- `CMD SRST` (46 R193): the soft reset, word `0x80000000`. -/
def execSrst (s : State) : Result := .next (writeCommand wordSrst s)

end Sys2Proof.Machine
end

