-- ==== Sys2Proof/Machine/Phases.lean ====
section
/-! DEFINITION. The rows of format PHASE: what the sequencer does in each phase and which phase follows (46 R191). -/

namespace Sys2Proof.Machine

/-- `IDLE`: waits for a host transaction; nothing changes (30 R77, 46 R189). -/
def execIdle (s : State) : Result := .next s

/-- `DECODE` (46 R190): an illegal word is a UsageError and `MODE` stays `0000`. -/
def execDecode (s : State) : Result :=
  if s.cmdreg = wordChecksum then .next { s with mode := .checksum, phase := .load }
  else if s.cmdreg = wordGenmac then .next { s with mode := .genmac, phase := .load }
  else if s.cmdreg = wordValmac then .next { s with mode := .valmac, phase := .parse }
  else if s.cmdreg = wordAttack then .next { s with mode := .attack, phase := .parse }
  else .next (raiseError .usageError s)

/-- `PARSE` (44 R156): neither `H` nor `OUT` nor `DIN` is written on an error. -/
def execParse (s : State) : Result :=
  match parseDigest s.dhex with
  | none => .next (raiseError .usageError s)
  | some r =>
    if s.mode = .attack then
      if s.keylen = 0#64 then .next (raiseError .usageError s)
      else .next { s with din := r, phase := .glue }
    else .next { s with din := r, phase := .load }

/-- `T = KEYLEN + len(MSG)`, a natural-number sum (45 R172, R174). -/
def priorTotalLength (s : State) : Nat := s.keylen.toNat + s.msg.length

/-- `GLUE` (45 R174): the length check, then `OUT` is built, each `append` checked. -/
def execGlue (s : State) : Result :=
  let total := priorTotalLength s
  if lengthLimit ≤ total then .next (raiseError .lengthOverflow s)
  else
    let g := glueBytes total
    let built := ((append [] s.msg).bind fun b => append b g).bind fun b => append b s.sfx
    match built with
    | none => .next (raiseError .allocationFailure s)
    | some b =>
      .next { s with pbc := priorBlockCount total, out := b, glueOff := s.msg.length, glueLen := g.length, phase := .load }

/-- `LOAD` (43 R141): one case per mode; `MODE = 0000` has none (log 13). Where the `prepend` fails, `WORK` holds the copy
of `MSG` made before it (log 12). -/
def execLoad (s : State) : Result :=
  match s.mode with
  | .checksum => .next { s with work := s.msg, prior := 0, h := initialValue, phase := .pad }
  | .genmac =>
    match prepend s.msg s.key with
    | some b => .next { s with work := b, prior := 0, h := initialValue, phase := .pad }
    | none => .next (raiseError .allocationFailure { s with work := s.msg })
  | .valmac =>
    match prepend s.msg s.key with
    | some b => .next { s with work := b, prior := 0, h := initialValue, phase := .pad }
    | none => .next (raiseError .allocationFailure { s with work := s.msg })
  | .attack => .next { s with work := s.sfx, prior := 64 * s.pbc, h := s.din, phase := .pad }
  | .none => .fault .loadWithoutMode

/-- `PAD` (41 R112): the length check, the padding append, and the check the document requires (41 R113). -/
def execPad (s : State) : Result :=
  let l := s.work.length
  if lengthLimit ≤ l + s.prior then .next (raiseError .lengthOverflow s)
  else
    match append s.work (padBytes l (l + s.prior)) with
    | none => .next (raiseError .allocationFailure s)
    | some b =>
      if b.length % 64 ≠ 0 then .next (raiseError .internalInvariantViolation { s with work := b })
      else .next { s with work := b, nblk := b.length / 64, blkidx := 0, phase := .fetch }

/-- `FETCH` (43 R143): take the next block or leave the loop. -/
def execFetch (s : State) : Result :=
  if s.blkidx = s.nblk then .next { s with phase := .finish }
  else
    match readBlock s.work (64 * s.blkidx) with
    | some b => .next { s with block := b, phase := .sched }
    | none => .fault .readBeyondWork

/-- `SCHED` with `INIT` (42 R126, R127). -/
def execSched (s : State) : Result := .next { s with w := schedule s.block, v := s.h, t := 0, phase := .round }

/-- `ROUND` (42 R128); there is no `W[64]` or `K[64]` (log 13). -/
def execRound (s : State) : Result :=
  if h : s.t.val < 64 then
    .next { s with
      v := roundStep s.v s.w[s.t.val] (roundConstant s.t.val)
      t := ⟨s.t.val + 1, by omega⟩
      phase := if s.t.val + 1 = 64 then .fold else .round }
  else .fault .roundIndexOutOfRange

/-- `FOLD` (42 R129). -/
def execFold (s : State) : Result :=
  .next { s with h := feedForward s.h s.v, blkidx := s.blkidx + 1, phase := .fetch }

/-- `FINISH` (46 R192): `H`, `DIN`, `OUT`, `GLUE_OFF`, `GLUE_LEN`, `PBC`, `WORK` keep their values. DESIGN CHOICE: so do `V`,
`W`, `BLOCK`, `PRIOR`, `NBLK`, `BLKIDX`, `T`, which 93 U4 leaves open between commands (log 23). -/
def execFinish (s : State) : Result :=
  .next { clearInputs s with
    matched := if s.mode = .valmac then equal8 s.h s.din else s.matched
    dvalid := true
    ovalid := if s.mode = .attack then true else s.ovalid
    done := true
    busy := false
    phase := .idle }

/-- `FAULT`: waits for a reset; nothing changes (60 R217, 30 R77). -/
def execFault (s : State) : Result := .next s

end Sys2Proof.Machine
end

