-- ==== Sys2Proof/Machine/Ports.lean ====
section
/-! DEFINITION. The rows of format REGW: the host's writes to the byte ports and to `KEYLEN` and `OUT_ADDR` (46 R186,
R187). -/

namespace Sys2Proof.Machine

/-- `HostWrite(KEY_PORT, value)` (46 R186). -/
def execWrKeyPort (value : BitVec 64) (s : State) : Result := .next (writePort .key value s)

/-- `HostWrite(MSG_PORT, value)` (46 R186). -/
def execWrMsgPort (value : BitVec 64) (s : State) : Result := .next (writePort .msg value s)

/-- `HostWrite(SFX_PORT, value)` (46 R186). -/
def execWrSfxPort (value : BitVec 64) (s : State) : Result := .next (writePort .sfx value s)

/-- `HostWrite(DHEX_PORT, value)` (46 R186). -/
def execWrDhexPort (value : BitVec 64) (s : State) : Result := .next (writePort .dhex value s)

/-- `HostWrite(KEYLEN, value)`: held while `BUSY`, ignored in `FAULT` (46 R187). -/
def execWrKeylen (value : BitVec 64) (s : State) : Result :=
  if s.busy then .next (holdWrite regKeylen value s)
  else if s.phase = .fault then .next s
  else .next { s with keylen := value }

/-- `HostWrite(OUT_ADDR, value)`: held while `BUSY`, ignored in `FAULT` (46 R187). -/
def execWrOutAddr (value : BitVec 64) (s : State) : Result :=
  if s.busy then .next (holdWrite regOutAddr value s)
  else if s.phase = .fault then .next s
  else .next { s with outAddr := value }

end Sys2Proof.Machine
end

