-- ==== Sys2Proof/Machine/Dispatch.lean ====
section
/-! DEFINITION. One arm per instruction. -/

namespace Sys2Proof.Machine

/-- The meaning of each row of spec/opcode_table.json. -/
def exec (i : Instr) (s : State) : Host.Outcome State Fault Refusal :=
  match i with
  | .checksum => Sys2Proof.Machine.execChecksum s
  | .genmac => Sys2Proof.Machine.execGenmac s
  | .valmac => Sys2Proof.Machine.execValmac s
  | .attack => Sys2Proof.Machine.execAttack s
  | .srst => Sys2Proof.Machine.execSrst s
  | .idle => Sys2Proof.Machine.execIdle s
  | .decode => Sys2Proof.Machine.execDecode s
  | .parse => Sys2Proof.Machine.execParse s
  | .glue => Sys2Proof.Machine.execGlue s
  | .load => Sys2Proof.Machine.execLoad s
  | .pad => Sys2Proof.Machine.execPad s
  | .fetch => Sys2Proof.Machine.execFetch s
  | .sched => Sys2Proof.Machine.execSched s
  | .round => Sys2Proof.Machine.execRound s
  | .fold => Sys2Proof.Machine.execFold s
  | .finish => Sys2Proof.Machine.execFinish s
  | .fault => Sys2Proof.Machine.execFault s
  | .wrKeyPort value => Sys2Proof.Machine.execWrKeyPort value s
  | .wrMsgPort value => Sys2Proof.Machine.execWrMsgPort value s
  | .wrSfxPort value => Sys2Proof.Machine.execWrSfxPort value s
  | .wrDhexPort value => Sys2Proof.Machine.execWrDhexPort value s
  | .wrKeylen value => Sys2Proof.Machine.execWrKeylen value s
  | .wrOutAddr value => Sys2Proof.Machine.execWrOutAddr value s

end Sys2Proof.Machine
end

