-- ==== Sys2Proof/Machine/HostView.lean ====
section
/-! DEFINITION. What the host reads: `HostRead` for every register number, and what it makes of a finished command
(30 R71, R85; 46 R194, R195, R199). -/

namespace Sys2Proof.Machine

/-- `HostRead(reg)` (30 R71; 46 R194, R195): the value, zero-extended to 64 bits; write-only and reserved numbers read 0
(30 R85). -/
def hostRead (reg : BitVec 8) (s : State) : BitVec 64 :=
  if reg = regStatus then (statusWord s).setWidth 64
  else if reg = regKeylen then s.keylen
  else if reg = regKeyLength then BitVec.ofNat 64 s.key.length
  else if reg = regMsgLength then BitVec.ofNat 64 s.msg.length
  else if reg = regSfxLength then BitVec.ofNat 64 s.sfx.length
  else if reg = regDhexLength then BitVec.ofNat 64 s.dhex.length
  else if reg = regOutLength then BitVec.ofNat 64 s.out.length
  else if reg = regOutAddr then s.outAddr
  else if reg = regOutData then (s.out.getD s.outAddr.toNat 0x00#8).setWidth 64
  else if reg = regGlueOffset then BitVec.ofNat 64 s.glueOff
  else if reg = regGlueLength then BitVec.ofNat 64 s.glueLen
  else if regH0.toNat ≤ reg.toNat ∧ reg.toNat < regH0.toNat + 8 then
    (s.h.toList.getD (reg.toNat - regH0.toNat) 0#32).setWidth 64
  else if reg = regPbc then BitVec.ofNat 64 s.pbc
  else if regDigestHex.toNat ≤ reg.toNat ∧ reg.toNat < regDigestHex.toNat + 64 then
    (digestChar s.h (reg.toNat - regDigestHex.toNat)).setWidth 64
  else 0#64

/-- A completed read: the value goes to the host, and CORE's state does not change (20 R57; log 8). -/
def completeRead (reg : BitVec 8) (s : State) : State := { s with replies := ⟨reg, hostRead reg s⟩ :: s.replies }

/-- The exit status a host gives for the last command, where the document states one: 0 for a match and 1 for a mismatch
of `VALMAC`, `EXIT_USAGE` for a usage error (46 R199; 92 D31; log 20). Host level, no part of `step`. -/
def hostExitStatus (s : State) : Option Nat :=
  if s.done = true ∧ s.mode = .valmac then some (if s.matched then 0 else 1)
  else if s.err = .usageError then some Config.exitUsage
  else none

end Sys2Proof.Machine
end

