-- ==== Sys2Proof/Machine/Turn.lean ====
section
/-! DEFINITION. Which agent moves next, what step fetches, and what it does with it: the hold rule (46 R188), the host's
order (20 R62), the hard reset (70 R240, R241), and the writes that are no row of the opcode table (30 R74, R85). -/

namespace Sys2Proof.Machine

/-- What one step does. -/
inductive Turn where
  /-- The hard reset takes effect. -/
  | hardReset
  /-- A `HostRead` completes. -/
  | read (reg : BitVec 8)
  /-- An encoding is decoded and run: a host write, or the phase the sequencer is in. -/
  | run (e : Encoded)
deriving DecidableEq, Repr

/-- While `BUSY = 1` only a read of `STATUS` completes (46 R188). -/
def isHeld (busy : Bool) : HostAction → Bool
  | .write _ _ => busy
  | .read reg => busy && reg != regStatus
  | .hardReset => false
  | .pause => false

/-- The turn and the host's remaining actions. The host acts in order; a held transaction stays first and the sequencer
moves. Behind a held transaction only a hard reset takes effect, at once, and a pause passes (46 R185, R188; 70 R240,
R241; logs 5, 6). -/
def nextTurn (phase : Phase) (busy : Bool) (pending : List HostAction) : Turn × List HostAction :=
  match pending with
  | [] => (.run (.phase (phaseCode phase)), [])
  | a :: rest =>
    if isHeld busy a then
      match rest with
      | .hardReset :: later => (.hardReset, a :: later)
      | .pause :: later => (.run (.phase (phaseCode phase)), a :: later)
      | [] => (.run (.phase (phaseCode phase)), [a])
      | .read reg :: later => (.run (.phase (phaseCode phase)), a :: .read reg :: later)
      | .write reg value :: later => (.run (.phase (phaseCode phase)), a :: .write reg value :: later)
    else
      match a with
      | .write reg value => (.run (.write reg value), rest)
      | .read reg => (.read reg, rest)
      | .hardReset => (.hardReset, rest)
      | .pause => (.run (.phase (phaseCode phase)), rest)

/-- The turn of a state. -/
def turnOf (s : State) : Turn := (nextTurn s.phase s.busy s.pending).1

/-- The state with the turn taken off the host's list. -/
def afterTurn (s : State) : State := { s with pending := (nextTurn s.phase s.busy s.pending).2 }

/-- What an encoding that is no row of the opcode table does: an illegal command word is issued (30 R74, 46 R189), a write
to a read-only or reserved register is ignored (30 R85). -/
def runRejected (value : BitVec 64) (r : Reject) (s : State) : Result :=
  match r with
  | .unusedPhase _ => .fault .unusedPhaseCode
  | .illegalCommand word => .next (writeCommand word s)
  | .readOnlyRegister reg => .next (writeIgnored reg value s)
  | .reservedRegister reg => .next (writeIgnored reg value s)

/-- The value an encoding carries. -/
def encodedValue : Encoded → BitVec 64
  | .phase _ => 0#64
  | .write _ value => value

/-- Decode and run. -/
def runEncoded (e : Encoded) (s : State) : Result :=
  match decode e with
  | .instr i => exec i s
  | .reject r => runRejected (encodedValue e) r s

/-- One turn. -/
def runTurn (turn : Turn) (s : State) : Result :=
  match turn with
  | .hardReset => .next (applyReset s)
  | .read reg => .next (completeRead reg s)
  | .run e => runEncoded e s

/-- `s` with an encoding placed where step fetches next: a write becomes the host's next action, in a state that does not
hold it; a phase becomes `PHASE`, with the host pausing, and with a mode where LOAD needs one (logs 15, 16). -/
def placeEncoded (e : Encoded) (s : State) : State :=
  match e with
  | .write reg value =>
    { s with
      pending := .write reg value :: s.pending
      phase := if s.busy then .idle else s.phase
      busy := false }
  | .phase code =>
    { s with
      pending := .pause :: s.pending
      phase := (phaseOfCode code).getD s.phase
      mode := if phaseOfCode code = some .load ∧ s.mode = .none then .checksum else s.mode }

end Sys2Proof.Machine
end

