-- ==== Sys2Proof/Machine/Step.lean ====
section
/-! DEFINITION. One step of the machine: the turn is chosen, taken off the host's list, and run. -/

namespace Sys2Proof.Machine

/-- One step: one host action, or one phase of the sequencer (00_scope R12; 46 R188, R191). -/
def step (s : State) : Host.Outcome State Fault Refusal := runTurn (turnOf s) (afterTurn s)

/-- `s` with the instruction of the opcode table's bits `w` (of `nbits` bits) placed where step fetches next. -/
def State.withFetchWord (s : State) (nbits w : Nat) : State := placeEncoded (tableEncoded nbits w) s

end Sys2Proof.Machine
end

