-- ==== Sys2Proof/Safety.lean ====
section
/-! DEFINITION. The invariant of CORE's state, what a safe step is, and when the host leaves the sequencer alone. -/

namespace Sys2Proof.Machine

/-- The phases from LOAD to FINISH: a mode has been decoded and checked. -/
def phaseIsHashing : Phase → Bool
  | .idle => false
  | .decode => false
  | .parse => false
  | .glue => false
  | .load => true
  | .pad => true
  | .fetch => true
  | .sched => true
  | .round => true
  | .fold => true
  | .finish => true
  | .fault => false

/-- The phases of the block loop, in which `WORK` is padded (43 R143). -/
def phaseIsLoop : Phase → Bool
  | .idle => false
  | .decode => false
  | .parse => false
  | .glue => false
  | .load => false
  | .pad => false
  | .fetch => true
  | .sched => true
  | .round => true
  | .fold => true
  | .finish => false
  | .fault => false

/-- The relations between CORE's fields that the spec's rules keep in every run from reset. -/
structure State.Inv (s : State) : Prop where
  /-- `BUSY` says that `PHASE` is neither `IDLE` nor `FAULT` (10_state R36). -/
  busy_phase : s.busy = phaseIsBusy s.phase
  /-- `FATAL` says that `PHASE` is `FAULT` (10_state R36). -/
  fatal_phase : s.fatal = decide (s.phase = .fault)
  /-- `FATAL` is shown with a fatal code and only with one (30 R75, R76). -/
  fatal_code : s.fatal = isFatal s.err
  /-- `DONE` excludes a running command and an error (30 R75). -/
  done_clear : s.done = true → s.busy = false ∧ s.err = .none
  /-- While a command runs no error is shown (46 R189). -/
  busy_clear : s.busy = true → s.err = .none
  /-- `DVALID` is set and cleared with `DONE` (10_state R35). -/
  dvalid_done : s.dvalid = s.done
  /-- `OVALID` is set by a finished `ATTACK` (10_state R35). -/
  ovalid_attack : s.ovalid = (s.done && decide (s.mode = .attack))
  /-- `MATCH` is set by a finished `VALMAC` (10_state R35). -/
  matched_valmac : s.matched = true → s.done = true ∧ s.mode = .valmac
  /-- No mode before DECODE has run (46 R189, R190). -/
  mode_decode : s.phase = .decode → s.mode = .none
  /-- PARSE is entered by `VALMAC` and `ATTACK` only (44 R156). -/
  mode_parse : s.phase = .parse → s.mode = .valmac ∨ s.mode = .attack
  /-- GLUE is entered by `ATTACK` only (45 R174). -/
  mode_glue : s.phase = .glue → s.mode = .attack
  /-- From LOAD on a mode is selected (43 R141). -/
  mode_hashing : phaseIsHashing s.phase = true → s.mode ≠ .none
  /-- Every buffer is at most `BUF_CAP` long (10_state R31). -/
  memory : Memory.wf s
  /-- In the block loop `WORK` is `NBLK` whole blocks, and `0 <= BLKIDX <= NBLK` (10_state R33, 20 R55). -/
  loop_work : phaseIsLoop s.phase = true → s.work.length = 64 * s.nblk ∧ s.blkidx ≤ s.nblk
  /-- From SCHED to FOLD a block is in hand (43 R143). -/
  loop_block : phaseIsLoop s.phase = true → s.phase ≠ .fetch → s.blkidx < s.nblk
  /-- ROUND runs at `T < 64` (42 R128). -/
  round_index : s.phase = .round → s.t.val < 64
  /-- `OUT` and the attack registers are empty unless they are results or an `ATTACK` past GLUE is running (46 R195). -/
  attack_results : s.ovalid = true ∨ (s.mode = .attack ∧ phaseIsHashing s.phase = true) ∨
    (s.out = [] ∧ s.glueOff = 0 ∧ s.glueLen = 0 ∧ s.pbc = 0)
  /-- The count registers fit their 64 bits (00_scope R11, R15). -/
  counts : s.prior < 2 ^ 64 ∧ 64 * s.pbc < 2 ^ 64 ∧ s.nblk < 2 ^ 64 ∧ s.blkidx < 2 ^ 64 ∧ s.glueOff < 2 ^ 64 ∧
    s.glueLen < 2 ^ 64

/-- The step answers a next state: no fault and no refusal. -/
def Safe (s : State) : Prop := ∃ t, step s = .next t

/-- `n` steps, stopping at the first fault or refusal. -/
def run : Nat → State → Result
  | 0, s => .next s
  | n + 1, s =>
    match step s with
    | .next t => run n t
    | .fault r => .fault r
    | .refused r => .refused r

/-- With `BUSY = 1` the host does nothing that completes: it presents nothing, or a transaction that is held with neither
a hard reset nor a pause behind it (46 R188). -/
def hostWaits (pending : List HostAction) : Bool :=
  match pending with
  | [] => true
  | a :: rest =>
    isHeld true a &&
      match rest with
      | [] => true
      | .write _ _ :: _ => true
      | .read _ :: _ => true
      | .hardReset :: _ => false
      | .pause :: _ => false

end Sys2Proof.Machine
end

