-- ==== Sys2Proof/Certificates/Slice0/Obligations.lean ====
section
/-! DEFINITION. The statements about CORE, each from the numbered rules its docstring names. Most results are equations
of whole states, so that each says what changes and that nothing else does. Where such an equation is of a step between
commands (an issue, an end, a transaction in `IDLE` or `FAULT`), that `V`, `W`, `BLOCK`, `PRIOR`, `NBLK`, `BLKIDX`, `T`
keep their content is the model's choice (log 23). -/

open Sys2Proof Sys2Proof.Machine

/-! ### Encodings -/

/-- Every well-formed instruction is what its encoding decodes to (30 R71, R73, R77). -/
def Obligations.DecodeOfEncodeGivesTheInstruction : Prop :=
  ∀ i : Instr, i.wellFormed = true → decode (encode i) = .instr i

/-- An encoding that fits its register and decodes to an instruction is that instruction's encoding, and the instruction
is well formed: no two encodings share a meaning (30 R71, R73, R77). -/
def Obligations.EncodeOfDecodedGivesTheEncoding : Prop :=
  ∀ (e : Encoded) (i : Instr), e.fits = true → decode e = .instr i → encode i = e ∧ i.wellFormed = true

/-- A few words written out from the spec decode as it says: the command words of 30 R73, register numbers of 30 R71 and
phase codes of 30 R77. -/
def Obligations.SpecWordsDecode : Prop :=
  decodeTableWord 32 0x00000001 = some .checksum ∧ decodeTableWord 32 0x00000008 = some .attack ∧
  decodeTableWord 32 0x80000000 = some .srst ∧ decodeTableWord 32 0x00000003 = none ∧
  decodeTableWord 8 0x03 = some (.wrKeyPort 0#64) ∧ decodeTableWord 8 0x0C = some (.wrOutAddr 0#64) ∧
  decode (.write 0x02#8 6#64) = .instr (.wrKeylen 6#64) ∧ decode (.phase 0b0111#4) = .instr .sched ∧
  decode (.phase 0b1010#4) = .instr .finish ∧ decode (.phase 0b1011#4) = .reject (.unusedPhase 0b1011#4)

/-- Every other command word is illegal: rejected by name, issued like a command, and a UsageError in DECODE (30 R74). That
the scratch registers keep their content is the model's choice (log 23). -/
def Obligations.IllegalCommandWordIsIssuedThenUsageError : Prop :=
  ∀ word : BitVec 32,
    word ≠ 0x00000001#32 → word ≠ 0x00000002#32 → word ≠ 0x00000004#32 → word ≠ 0x00000008#32 →
    word ≠ 0x80000000#32 →
      decode (.write 0x00#8 (word.setWidth 64)) = .reject (.illegalCommand word) ∧
      (∀ (s : State) (rest : List HostAction), s.busy = false → s.phase = .idle →
        s.pending = .write 0x00#8 (word.setWidth 64) :: rest →
          step s = .next { s with
            cmdreg := word, busy := true, done := false, matched := false, err := .none, dvalid := false,
            ovalid := false, mode := .none, out := [], glueOff := 0, glueLen := 0, pbc := 0, phase := .decode,
            pending := rest }) ∧
      (∀ s : State, s.cmdreg = word → exec .decode s = .next (raiseError .usageError s))

/-! ### Reset, invariant, status -/

/-- The values the spec gives the state after reset (10_state R39, 70 R241), with the read-only registers `K[0..63]` and
`IV[0..7]`, which no reset touches and no agent writes (10_state R25, R26): their values are those of 42 R124 and R125,
general knowledge by the spec's own mark (log 11). The fields the spec leaves unspecified are not named. -/
def Obligations.ResetLeavesTheStatedValues : Prop :=
  State.reset.phase = .idle ∧ statusWord State.reset = 0x00000000#32 ∧ State.reset.cmdreg = 0#32 ∧
  State.reset.keylen = 0#64 ∧ State.reset.key = [] ∧ State.reset.msg = [] ∧ State.reset.sfx = [] ∧
  State.reset.dhex = [] ∧ State.reset.out = [] ∧ State.reset.outAddr = 0#64 ∧ State.reset.glueOff = 0 ∧
  State.reset.glueLen = 0 ∧ State.reset.pbc = 0 ∧ (∀ i : Fin 8, State.reset.h[i] = 0#32 ∧ State.reset.din[i] = 0#32) ∧
  (List.range' 0 4).map (fun t => (roundConstant t).toNat) = [0x428a2f98, 0x71374491, 0xb5c0fbcf, 0xe9b5dba5] ∧
  (List.range' 4 4).map (fun t => (roundConstant t).toNat) = [0x3956c25b, 0x59f111f1, 0x923f82a4, 0xab1c5ed5] ∧
  (List.range' 8 4).map (fun t => (roundConstant t).toNat) = [0xd807aa98, 0x12835b01, 0x243185be, 0x550c7dc3] ∧
  (List.range' 12 4).map (fun t => (roundConstant t).toNat) = [0x72be5d74, 0x80deb1fe, 0x9bdc06a7, 0xc19bf174] ∧
  (List.range' 16 4).map (fun t => (roundConstant t).toNat) = [0xe49b69c1, 0xefbe4786, 0x0fc19dc6, 0x240ca1cc] ∧
  (List.range' 20 4).map (fun t => (roundConstant t).toNat) = [0x2de92c6f, 0x4a7484aa, 0x5cb0a9dc, 0x76f988da] ∧
  (List.range' 24 4).map (fun t => (roundConstant t).toNat) = [0x983e5152, 0xa831c66d, 0xb00327c8, 0xbf597fc7] ∧
  (List.range' 28 4).map (fun t => (roundConstant t).toNat) = [0xc6e00bf3, 0xd5a79147, 0x06ca6351, 0x14292967] ∧
  (List.range' 32 4).map (fun t => (roundConstant t).toNat) = [0x27b70a85, 0x2e1b2138, 0x4d2c6dfc, 0x53380d13] ∧
  (List.range' 36 4).map (fun t => (roundConstant t).toNat) = [0x650a7354, 0x766a0abb, 0x81c2c92e, 0x92722c85] ∧
  (List.range' 40 4).map (fun t => (roundConstant t).toNat) = [0xa2bfe8a1, 0xa81a664b, 0xc24b8b70, 0xc76c51a3] ∧
  (List.range' 44 4).map (fun t => (roundConstant t).toNat) = [0xd192e819, 0xd6990624, 0xf40e3585, 0x106aa070] ∧
  (List.range' 48 4).map (fun t => (roundConstant t).toNat) = [0x19a4c116, 0x1e376c08, 0x2748774c, 0x34b0bcb5] ∧
  (List.range' 52 4).map (fun t => (roundConstant t).toNat) = [0x391c0cb3, 0x4ed8aa4a, 0x5b9cca4f, 0x682e6ff3] ∧
  (List.range' 56 4).map (fun t => (roundConstant t).toNat) = [0x748f82ee, 0x78a5636f, 0x84c87814, 0x8cc70208] ∧
  (List.range' 60 4).map (fun t => (roundConstant t).toNat) = [0x90befffa, 0xa4506ceb, 0xbef9a3f7, 0xc67178f2] ∧
  initialValue.toList.map BitVec.toNat =
    [0x6a09e667, 0xbb67ae85, 0x3c6ef372, 0xa54ff53a, 0x510e527f, 0x9b05688c, 0x1f83d9ab, 0x5be0cd19]

/-- The invariant holds right after reset. Of the fields whose reset value is the model's choice (log 2) it bounds only the
counts and the length of `WORK`. -/
def Obligations.InvariantHoldsAtReset : Prop := State.reset.Inv

/-- From every state that meets the invariant, a step that answers a next state gives one that meets it: `BUSY` and
`FATAL` say what `PHASE` says, buffers stay within `BUF_CAP`, `WORK` stays whole blocks in the block loop, results are
marked as 10_state R35 says, and `OUT` and the attack registers are empty unless they are results (46 R195). -/
def Obligations.EveryStepKeepsTheInvariant : Prop := ∀ s t : State, s.Inv → step s = .next t → t.Inv

/-- No state that meets the invariant stops: no read outside a buffer or a register file is ever made (20 R55, R61), so
none of the model's own faults (log 13) is reached. -/
def Obligations.NoStepStopsUnderTheInvariant : Prop := ∀ s : State, s.Inv → Safe s

/-- The layout of `STATUS`, the numbers its `ERR` and `MODE` fields show (30 R76, 10_state R34), that exactly one of its
five outcomes holds at any time (30 R75), and which errors are shown as fatal (30 R76). -/
def Obligations.StatusWordLayoutAndOutcome : Prop :=
  ∀ s : State,
    (statusWord s).extractLsb' 0 1 = BitVec.ofBool s.busy ∧ (statusWord s).extractLsb' 1 1 = BitVec.ofBool s.done ∧
    (statusWord s).extractLsb' 2 1 = BitVec.ofBool s.matched ∧ (statusWord s).extractLsb' 3 1 = BitVec.ofBool s.fatal ∧
    (statusWord s).extractLsb' 4 4 = errorBits s.err ∧ (statusWord s).extractLsb' 8 4 = modeBits s.mode ∧
    (statusWord s).extractLsb' 12 1 = BitVec.ofBool s.dvalid ∧
    (statusWord s).extractLsb' 13 1 = BitVec.ofBool s.ovalid ∧ (statusWord s).extractLsb' 14 18 = 0#18 ∧
    errorBits .none = 0#4 ∧ errorBits .usageError = 1#4 ∧ errorBits .allocationFailure = 2#4 ∧
    errorBits .internalInvariantViolation = 3#4 ∧ errorBits .lengthOverflow = 4#4 ∧
    modeBits .none = 0b0000#4 ∧ modeBits .checksum = 0b0001#4 ∧ modeBits .genmac = 0b0010#4 ∧
    modeBits .valmac = 0b0100#4 ∧ modeBits .attack = 0b1000#4 ∧
    (s.Inv → (s.fatal = true ↔ s.phase = .fault) ∧
      (s.fatal = true ↔ s.err = .allocationFailure ∨ s.err = .internalInvariantViolation) ∧
      List.count true
        [s.busy, s.fatal, s.done, decide (s.err ≠ .none) && !s.fatal,
          !s.busy && !s.fatal && !s.done && decide (s.err = .none)] = 1)

/-! ### The host -/

/-- `SRST` in `IDLE` or `FAULT` completes at once and leaves what the spec gives a reset a value for (46 R193, 70 R241);
what the host has still to present and has read is not CORE's. -/
def Obligations.SoftResetCompletes : Prop :=
  ∀ s : State, s.busy = false → s.phase = .idle ∨ s.phase = .fault →
    ∃ t, exec .srst s = .next t ∧ t.phase = .idle ∧ statusWord t = 0x00000000#32 ∧ t.cmdreg = 0#32 ∧
      t.keylen = 0#64 ∧ t.key = [] ∧ t.msg = [] ∧ t.sfx = [] ∧ t.dhex = [] ∧ t.out = [] ∧ t.outAddr = 0#64 ∧
      t.glueOff = 0 ∧ t.glueLen = 0 ∧ t.pbc = 0 ∧ (∀ i : Fin 8, t.h[i] = 0#32 ∧ t.din[i] = 0#32) ∧
      t.work.length ≤ Config.bufCap ∧ t.pending = s.pending ∧ t.replies = s.replies

/-- The hard reset takes effect at once in any phase, and a transaction held when it arrives stays to complete after it
(70 R240, R241). That a held transaction stands before the reset in the host's list is the model's form (logs 5, 6). -/
def Obligations.HardResetTakesEffectAtOnce : Prop :=
  ∀ (s : State) (rest : List HostAction),
    (s.pending = .hardReset :: rest →
      ∃ t, step s = .next t ∧ t.phase = .idle ∧ statusWord t = 0x00000000#32 ∧ t.cmdreg = 0#32 ∧ t.keylen = 0#64 ∧
        t.key = [] ∧ t.msg = [] ∧ t.sfx = [] ∧ t.dhex = [] ∧ t.out = [] ∧ t.outAddr = 0#64 ∧ t.glueOff = 0 ∧
        t.glueLen = 0 ∧ t.pbc = 0 ∧ (∀ i : Fin 8, t.h[i] = 0#32 ∧ t.din[i] = 0#32) ∧ t.pending = rest) ∧
    (∀ a : HostAction, isHeld s.busy a = true → s.pending = a :: .hardReset :: rest →
      ∃ t, step s = .next t ∧ t.phase = .idle ∧ statusWord t = 0x00000000#32 ∧ t.cmdreg = 0#32 ∧ t.keylen = 0#64 ∧
        t.key = [] ∧ t.msg = [] ∧ t.sfx = [] ∧ t.dhex = [] ∧ t.out = [] ∧ t.outAddr = 0#64 ∧ t.glueOff = 0 ∧
        t.glueLen = 0 ∧ t.pbc = 0 ∧ (∀ i : Fin 8, t.h[i] = 0#32 ∧ t.din[i] = 0#32) ∧ t.pending = a :: rest)

/-- While `BUSY = 1` a write, or a read of a register other than `STATUS`, has no effect and stays the host's next
transaction; the sequencer moves (46 R188). The host as a list is the model's form (logs 5, 6). -/
def Obligations.BusyHoldsEveryOtherTransaction : Prop :=
  ∀ (s : State) (a : HostAction) (rest : List HostAction) (i : Instr),
    s.busy = true → s.pending = a :: rest →
    ((∃ reg value, a = .write reg value) ∨ ∃ reg, a = .read reg ∧ reg ≠ 0x01#8) →
    (∀ later, rest ≠ .hardReset :: later ∧ rest ≠ .pause :: later) →
    decode (.phase (phaseCode s.phase)) = .instr i → step s = exec i s

/-- A read of `STATUS` completes at once, busy or not, and changes nothing of CORE (46 R188, 20 R57). The list of replies
is the model's (log 8). -/
def Obligations.StatusReadCompletesAtOnce : Prop :=
  ∀ (s : State) (rest : List HostAction), s.pending = .read 0x01#8 :: rest →
    step s = .next { s with
      pending := rest, replies := ⟨0x01#8, (statusWord s).setWidth 64⟩ :: s.replies }

/-- With `BUSY = 0` a read of any register completes with its value and changes nothing of CORE (20 R57, 46 R194, R195).
The list of replies is the model's (log 8). -/
def Obligations.ReadsHaveNoSideEffect : Prop :=
  ∀ (s : State) (reg : BitVec 8) (rest : List HostAction), s.busy = false → s.pending = .read reg :: rest →
    step s = .next { s with pending := rest, replies := ⟨reg, hostRead reg s⟩ :: s.replies }

/-- What each register number reads as (30 R71, R85; 46 R194, R195). -/
def Obligations.EveryRegisterReadsAsMapped : Prop :=
  ∀ s : State,
    hostRead 0x00#8 s = 0#64 ∧ hostRead 0x01#8 s = (statusWord s).setWidth 64 ∧ hostRead 0x02#8 s = s.keylen ∧
    (∀ reg : BitVec 8, 0x03 ≤ reg.toNat → reg.toNat ≤ 0x06 → hostRead reg s = 0#64) ∧
    hostRead 0x07#8 s = BitVec.ofNat 64 s.key.length ∧ hostRead 0x08#8 s = BitVec.ofNat 64 s.msg.length ∧
    hostRead 0x09#8 s = BitVec.ofNat 64 s.sfx.length ∧ hostRead 0x0A#8 s = BitVec.ofNat 64 s.dhex.length ∧
    hostRead 0x0B#8 s = BitVec.ofNat 64 s.out.length ∧ hostRead 0x0C#8 s = s.outAddr ∧
    (∀ hlt : s.outAddr.toNat < s.out.length, hostRead 0x0D#8 s = (s.out[s.outAddr.toNat]).setWidth 64) ∧
    (s.out.length ≤ s.outAddr.toNat → hostRead 0x0D#8 s = 0#64) ∧
    hostRead 0x0E#8 s = BitVec.ofNat 64 s.glueOff ∧ hostRead 0x0F#8 s = BitVec.ofNat 64 s.glueLen ∧
    (∀ i : Fin 8, hostRead (BitVec.ofNat 8 (0x10 + i.val)) s = (s.h[i]).setWidth 64) ∧
    hostRead 0x18#8 s = BitVec.ofNat 64 s.pbc ∧
    (∀ k : Fin 64, hostRead (BitVec.ofNat 8 (0x40 + k.val)) s = ((renderDigest s.h).getD k.val 0#8).setWidth 64) ∧
    (∀ reg : BitVec 8, (0x19 ≤ reg.toNat ∧ reg.toNat ≤ 0x3F) ∨ 0x80 ≤ reg.toNat → hostRead reg s = 0#64)

/-- A write to a read-only or reserved register completes and changes nothing (30 R85, R71). -/
def Obligations.ReadOnlyAndReservedWritesAreIgnored : Prop :=
  ∀ (s : State) (reg : BitVec 8) (value : BitVec 64) (rest : List HostAction),
    s.busy = false → s.pending = .write reg value :: rest →
    (reg = 0x01#8 ∨ (0x07 ≤ reg.toNat ∧ reg.toNat ≠ 0x0C)) → step s = .next { s with pending := rest }

/-- In phase `FAULT` every write but `SRST` is ignored (46 R196). -/
def Obligations.FaultIgnoresEveryWriteButSoftReset : Prop :=
  ∀ (s : State) (reg : BitVec 8) (value : BitVec 64) (rest : List HostAction),
    s.busy = false → s.phase = .fault → s.pending = .write reg value :: rest →
    ¬(reg = 0x00#8 ∧ value.setWidth 32 = 0x80000000#32) → step s = .next { s with pending := rest }

/-- A step runs the decoded instruction: a host write that is not held, taken off the host's list; or, where the host
presents nothing, pauses, or waits for `BUSY`, the phase the sequencer is in. One phase is one step (log 17). -/
def Obligations.StepRunsTheDecodedInstruction : Prop :=
  ∀ (s : State) (i : Instr),
    (∀ reg value rest, s.busy = false → s.pending = .write reg value :: rest → decode (.write reg value) = .instr i →
      step s = exec i { s with pending := rest }) ∧
    (decode (.phase (phaseCode s.phase)) = .instr i →
      (s.pending = [] → step s = exec i s) ∧
      (∀ rest, s.pending = .pause :: rest → step s = exec i { s with pending := rest }) ∧
      (s.busy = true → hostWaits s.pending = true → step s = exec i s))

/-- A host write met while `BUSY = 1` has no effect and stays the host's next transaction (46 R188). That it goes back to
the head of the host's list is the model's form of "held" (log 14). -/
def Obligations.WritesAreHeldWhileBusy : Prop :=
  ∀ (s : State) (i : Instr) (reg : BitVec 8) (value : BitVec 64), s.busy = true → i.wellFormed = true →
    encode i = .write reg value → exec i s = .next { s with pending := .write reg value :: s.pending }

/-! ### Commands and ports -/

/-- The write of a legal command word in `IDLE` issues the command (46 R189): completion of `CHECKSUM`, `GENMAC`, `VALMAC`
and `ATTACK` as writes. That the scratch registers keep their content is the model's choice (log 23). -/
def Obligations.LegalCommandsIssue : Prop :=
  ∀ s : State, s.busy = false → s.phase = .idle →
    ∀ i : Instr, ∀ word : BitVec 32,
      (i = .checksum ∧ word = 0x00000001#32) ∨ (i = .genmac ∧ word = 0x00000002#32) ∨
      (i = .valmac ∧ word = 0x00000004#32) ∨ (i = .attack ∧ word = 0x00000008#32) →
        exec i s = .next { s with
          cmdreg := word, busy := true, done := false, matched := false, err := .none, dvalid := false,
          ovalid := false, mode := .none, out := [], glueOff := 0, glueLen := 0, pbc := 0, phase := .decode }

/-- A port write in `IDLE` to a buffer that is not full appends the low 8 bits of the value and changes nothing else
(46 R186, 30 R84). -/
def Obligations.PortWriteAppendsOneByte : Prop :=
  ∀ (s : State) (value : BitVec 64), s.busy = false → s.phase = .idle →
    (s.key.length < Config.bufCap →
      exec (.wrKeyPort value) s = .next { s with key := s.key ++ [value.setWidth 8] }) ∧
    (s.msg.length < Config.bufCap →
      exec (.wrMsgPort value) s = .next { s with msg := s.msg ++ [value.setWidth 8] }) ∧
    (s.sfx.length < Config.bufCap →
      exec (.wrSfxPort value) s = .next { s with sfx := s.sfx ++ [value.setWidth 8] }) ∧
    (s.dhex.length < Config.bufCap →
      exec (.wrDhexPort value) s = .next { s with dhex := s.dhex ++ [value.setWidth 8] })

/-- A port write in `IDLE` to a full buffer is a fatal AllocationFailure; the byte is not stored, and the fatal entry of
60 R217 is taken (46 R186; 92 D32). That `WORK` and the scratch registers keep their content is the model's choice
(logs 12, 23). -/
def Obligations.PortWriteToFullBufferIsFatal : Prop :=
  ∀ (s : State) (value : BitVec 64), s.busy = false → s.phase = .idle →
    ∀ t : State, t = { s with
        err := .allocationFailure, fatal := true, done := false, matched := false, dvalid := false, ovalid := false,
        out := [], glueOff := 0, glueLen := 0, pbc := 0, key := [], msg := [], sfx := [], dhex := [], keylen := 0#64,
        busy := false, phase := .fault } →
      (s.key.length = Config.bufCap → exec (.wrKeyPort value) s = .next t) ∧
      (s.msg.length = Config.bufCap → exec (.wrMsgPort value) s = .next t) ∧
      (s.sfx.length = Config.bufCap → exec (.wrSfxPort value) s = .next t) ∧
      (s.dhex.length = Config.bufCap → exec (.wrDhexPort value) s = .next t)

/-- `KEYLEN` and `OUT_ADDR` take any value written in `IDLE`; in `FAULT` the write is ignored (46 R187, R196). -/
def Obligations.KeylenAndOutAddrWrites : Prop :=
  ∀ (s : State) (value : BitVec 64), s.busy = false →
    (s.phase = .idle → exec (.wrKeylen value) s = .next { s with keylen := value } ∧
      exec (.wrOutAddr value) s = .next { s with outAddr := value }) ∧
    (s.phase = .fault → exec (.wrKeylen value) s = .next s ∧ exec (.wrOutAddr value) s = .next s)

/-! ### Phases -/

/-- `IDLE` and `FAULT` wait: nothing changes (30 R77, 60 R217). -/
def Obligations.IdleAndFaultWait : Prop := ∀ s : State, exec .idle s = .next s ∧ exec .fault s = .next s

/-- DECODE selects the mode and the next phase by the command word, and raises UsageError for every other word, `MODE`
staying as it is (46 R190). -/
def Obligations.DecodeSelectsModeAndPhase : Prop :=
  decode (.phase 0b0001#4) = .instr .decode ∧
  ∀ s : State,
    (s.cmdreg = 0x00000001#32 → exec .decode s = .next { s with mode := .checksum, phase := .load }) ∧
    (s.cmdreg = 0x00000002#32 → exec .decode s = .next { s with mode := .genmac, phase := .load }) ∧
    (s.cmdreg = 0x00000004#32 → exec .decode s = .next { s with mode := .valmac, phase := .parse }) ∧
    (s.cmdreg = 0x00000008#32 → exec .decode s = .next { s with mode := .attack, phase := .parse }) ∧
    (s.cmdreg ≠ 0x00000001#32 → s.cmdreg ≠ 0x00000002#32 → s.cmdreg ≠ 0x00000004#32 → s.cmdreg ≠ 0x00000008#32 →
      exec .decode s = .next (raiseError .usageError s) ∧ (raiseError .usageError s).mode = s.mode)

/-- The text a digest is parsed from: malformed exactly when it is not 64 characters long or holds a non-hex character;
otherwise word `i` is the number its 8 characters spell, first character most significant (44 R155, 30 R81). That capitals
and ASCII bytes are the characters is the spec's decision D12 (92; 93 U12), on which this statement rests. -/
def Obligations.ParseDigestReadsEightGroups : Prop :=
  ∀ text : Buffer,
    (parseDigest text = none ↔ text.length ≠ 64 ∨ ∃ c ∈ text, hexValue c = none) ∧
    (∀ d : Vector Word 8, parseDigest text = some d → ∀ i : Fin 8,
      (d[i]).toNat = ∑ j : Fin 8, (hexValue (text.getD (8 * i.val + j.val) 0#8)).getD 0 * 16 ^ (7 - j.val)) ∧
    (∀ c : Byte,
      (0x30 ≤ c.toNat → c.toNat ≤ 0x39 → hexValue c = some (c.toNat - 0x30)) ∧
      (0x61 ≤ c.toNat → c.toNat ≤ 0x66 → hexValue c = some (c.toNat - 0x57)) ∧
      (0x41 ≤ c.toNat → c.toNat ≤ 0x46 → hexValue c = some (c.toNat - 0x37)) ∧
      (¬(0x30 ≤ c.toNat ∧ c.toNat ≤ 0x39) → ¬(0x61 ≤ c.toNat ∧ c.toNat ≤ 0x66) →
        ¬(0x41 ≤ c.toNat ∧ c.toNat ≤ 0x46) → hexValue c = none))

/-- PARSE: a malformed text, or `KEYLEN = 0` with `ATTACK`, is a UsageError that writes neither `H` nor `DIN`; otherwise
`DIN` is written and the phase is GLUE for `ATTACK`, LOAD for the other mode (44 R156). -/
def Obligations.ParseWritesDinOrRaisesUsageError : Prop :=
  decode (.phase 0b0010#4) = .instr .parse ∧
  ∀ s : State,
    (∀ d, parseDigest s.dhex = some d → s.mode = .attack → s.keylen ≠ 0#64 →
      exec .parse s = .next { s with din := d, phase := .glue }) ∧
    (∀ d, parseDigest s.dhex = some d → s.mode ≠ .attack → exec .parse s = .next { s with din := d, phase := .load }) ∧
    (parseDigest s.dhex = none ∨ (s.mode = .attack ∧ s.keylen = 0#64) →
      exec .parse s = .next (raiseError .usageError s) ∧ (raiseError .usageError s).h = s.h ∧
        (raiseError .usageError s).din = s.din ∧ (raiseError .usageError s).out = [])

/-- GLUE: with `T = KEYLEN + len(MSG)` below `2^61` and room in `OUT`, `PBC`, `OUT = MSG ‖ glue ‖ SFX`, `GLUE_OFF` and
`GLUE_LEN` are written; too large a `T` is a LengthOverflow, checked first, and too little room an AllocationFailure
(45 R174, R172). -/
def Obligations.GlueBuildsTheForgedMessage : Prop :=
  decode (.phase 0b0011#4) = .instr .glue ∧
  ∀ (s : State) (total : Nat) (g : List Byte), total = s.keylen.toNat + s.msg.length → g = padBytes total total →
    (total < 2 ^ 61 → s.msg.length + g.length + s.sfx.length ≤ Config.bufCap →
      exec .glue s = .next { s with
        pbc := (total + g.length) / 64, out := s.msg ++ g ++ s.sfx, glueOff := s.msg.length, glueLen := g.length,
        phase := .load }) ∧
    (2 ^ 61 ≤ total → exec .glue s = .next (raiseError .lengthOverflow s)) ∧
    (total < 2 ^ 61 → Config.bufCap < s.msg.length + g.length + s.sfx.length →
      exec .glue s = .next (raiseError .allocationFailure s))

/-- LOAD, mode by mode: what goes to `WORK`, `PRIOR` and `H`; a `prepend` past `BUF_CAP` is an AllocationFailure
(43 R141). What `WORK` holds after that failure is left open here (log 12). -/
def Obligations.LoadSetsUpTheHash : Prop :=
  decode (.phase 0b0100#4) = .instr .load ∧
  ∀ s : State,
    (s.mode = .checksum →
      exec .load s = .next { s with work := s.msg, prior := 0, h := initialValue, phase := .pad }) ∧
    (s.mode = .genmac ∨ s.mode = .valmac → s.msg.length + s.key.length ≤ Config.bufCap →
      exec .load s = .next { s with work := s.key ++ s.msg, prior := 0, h := initialValue, phase := .pad }) ∧
    (s.mode = .genmac ∨ s.mode = .valmac → Config.bufCap < s.msg.length + s.key.length →
      ∃ t, exec .load s = .next t ∧ t = { s with
        work := t.work, err := .allocationFailure, fatal := true, done := false, matched := false, dvalid := false,
        ovalid := false, out := [], glueOff := 0, glueLen := 0, pbc := 0, key := [], msg := [], sfx := [], dhex := [],
        keylen := 0#64, busy := false, phase := .fault }) ∧
    (s.mode = .attack →
      exec .load s = .next { s with work := s.sfx, prior := 64 * s.pbc, h := s.din, phase := .pad })

/-- PAD: the length check first, then the padding append, then `NBLK` and `BLKIDX` (41 R112). -/
def Obligations.PadAppendsThePadding : Prop :=
  decode (.phase 0b0101#4) = .instr .pad ∧
  ∀ (s : State) (padding : List Byte), padding = padBytes s.work.length (s.work.length + s.prior) →
    (s.work.length + s.prior < 2 ^ 61 → s.work.length + padding.length ≤ Config.bufCap →
      exec .pad s = .next { s with
        work := s.work ++ padding, nblk := (s.work.length + padding.length) / 64, blkidx := 0, phase := .fetch }) ∧
    (2 ^ 61 ≤ s.work.length + s.prior → exec .pad s = .next (raiseError .lengthOverflow s)) ∧
    (s.work.length + s.prior < 2 ^ 61 → Config.bufCap < s.work.length + padding.length →
      exec .pad s = .next (raiseError .allocationFailure s))

/-- The check at the end of padding never fails: no PAD raises InternalInvariantViolation, and a padded `WORK` is whole
blocks, at least one (41 R113, R114). -/
def Obligations.PadInvariantCheckNeverFails : Prop :=
  ∀ s t : State, s.err ≠ .internalInvariantViolation → exec .pad s = .next t →
    t.err ≠ .internalInvariantViolation ∧ (t.phase = .fetch → t.work.length = 64 * t.nblk ∧ 1 ≤ t.nblk)

/-- FETCH takes the next 64 bytes of `WORK` into `BLOCK`, or leaves the loop when all are taken (43 R143). -/
def Obligations.FetchTakesTheNextBlock : Prop :=
  decode (.phase 0b0110#4) = .instr .fetch ∧
  ∀ s : State,
    (s.blkidx = s.nblk → exec .fetch s = .next { s with phase := .finish }) ∧
    (s.blkidx ≠ s.nblk → 64 * s.blkidx + 64 ≤ s.work.length →
      ∃ b : Vector Byte 64, exec .fetch s = .next { s with block := b, phase := .sched } ∧
        ∀ k : Fin 64, s.work[64 * s.blkidx + k.val]? = some b[k])

/-- SCHED builds all of `W` from `BLOCK` and copies `H` to `V`: the first 16 words are the block's bytes big-endian, the
others follow the recurrence (42 R126, R127; 20 R51). That INIT copies `H` to `V` is general knowledge by R127's own mark
(log 11). -/
def Obligations.SchedBuildsTheMessageSchedule : Prop :=
  decode (.phase 0b0111#4) = .instr .sched ∧
  ∀ s : State, ∃ w : Vector Word 64,
    exec .sched s = .next { s with w := w, v := s.h, t := 0, phase := .round } ∧
    (∀ j : Fin 16, (w[j.val]).toNat =
      (s.block[4 * j.val]).toNat * 2 ^ 24 + (s.block[4 * j.val + 1]).toNat * 2 ^ 16 +
        (s.block[4 * j.val + 2]).toNat * 2 ^ 8 + (s.block[4 * j.val + 3]).toNat) ∧
    (∀ j : Fin 64, 16 ≤ j.val →
      w[j] = smallSigma1 w[j.val - 2] + w[j.val - 7] + smallSigma0 w[j.val - 15] + w[j.val - 16])

/-- ROUND: the working variables move one place, `a` and `e` receive sums, and after the 64th round comes FOLD
(42 R128). The two sums and the moves are general knowledge by R128's own mark (log 11). `T = 64`, where no rule applies,
is in `FaultsWhereNoRuleApplies`. -/
def Obligations.RoundRotatesTheWorkingVariables : Prop :=
  decode (.phase 0b1000#4) = .instr .round ∧
  ∀ (s : State) (hlt : s.t.val < 64) (t1 t2 : Word),
    t1 = s.v[7] + bigSigma1 s.v[4] + ch s.v[4] s.v[5] s.v[6] + roundConstant s.t.val + s.w[s.t.val] →
    t2 = bigSigma0 s.v[0] + maj s.v[0] s.v[1] s.v[2] →
      exec .round s = .next { s with
        v := #v[t1 + t2, s.v[0], s.v[1], s.v[2], s.v[3] + t1, s.v[4], s.v[5], s.v[6]]
        t := ⟨s.t.val + 1, by omega⟩
        phase := if s.t.val = 63 then .fold else .round }

/-- FOLD adds `V` into `H`, each of the 8 sums reduced modulo 2^32 by itself, and advances `BLKIDX` (42 R129). -/
def Obligations.FoldAddsElementwise : Prop :=
  decode (.phase 0b1001#4) = .instr .fold ∧
  ∀ s : State, ∃ h : Vector Word 8,
    exec .fold s = .next { s with h := h, blkidx := s.blkidx + 1, phase := .fetch } ∧
    ∀ i : Fin 8, (h[i]).toNat = ((s.h[i]).toNat + (s.v[i]).toNat) % 2 ^ 32

/-- FINISH ends a command: the comparison for `VALMAC`, the flags, and the inputs cleared (46 R192, 44 R160). That the
scratch registers keep their content is the model's choice (log 23). -/
def Obligations.FinishEndsTheCommand : Prop :=
  decode (.phase 0b1010#4) = .instr .finish ∧
  ∀ s : State, ∃ t, exec .finish s = .next t ∧
    t = { s with
      matched := t.matched, ovalid := t.ovalid, dvalid := true, done := true, busy := false, key := [], msg := [],
      sfx := [], dhex := [], keylen := 0#64, phase := .idle } ∧
    (s.mode = .valmac → (t.matched = true ↔ ∀ i : Fin 8, s.h[i] = s.din[i])) ∧
    (s.mode ≠ .valmac → t.matched = s.matched) ∧ (s.mode = .attack → t.ovalid = true) ∧
    (s.mode ≠ .attack → t.ovalid = s.ovalid)

/-- Where no rule says what happens the model stops, by name (log 13): LOAD with `MODE = 0000`, FETCH of bytes that
`WORK` does not hold, ROUND at `T = 64`, and a phase code that is unused. -/
def Obligations.FaultsWhereNoRuleApplies : Prop :=
  ∀ s : State,
    (s.mode = .none → exec .load s = .fault .loadWithoutMode) ∧
    (s.blkidx ≠ s.nblk → s.work.length < 64 * s.blkidx + 64 → exec .fetch s = .fault .readBeyondWork) ∧
    (s.t.val = 64 → exec .round s = .fault .roundIndexOutOfRange) ∧
    (∀ code : BitVec 4, 0b1011 ≤ code.toNat → code.toNat ≤ 0b1110 →
      runEncoded (.phase code) s = .fault .unusedPhaseCode)

/-! ### Errors -/

/-- The non-fatal error entry (60 R216), for the two errors that take it. `H`, `DIN` and `WORK` keep what they held by
R216's sentence "`H`, `DIN` and `WORK` keep whatever they held and are not results" (log 12; 93 U5 leaves them open). That
the scratch registers keep their content is the model's choice (log 23). -/
def Obligations.NonFatalErrorEntry : Prop :=
  ∀ (s : State) (e : ErrorCode), e = .usageError ∨ e = .lengthOverflow →
    raiseError e s = { s with
      err := e, done := false, matched := false, dvalid := false, ovalid := false, out := [], glueOff := 0, glueLen := 0,
      pbc := 0, key := [], msg := [], sfx := [], dhex := [], keylen := 0#64, busy := false, phase := .idle }

/-- The fatal error entry (60 R217), for the two errors that take it. That `WORK` keeps its content is the model's reading
of the list in R217 (log 12), and that the scratch registers keep theirs is its choice (log 23). -/
def Obligations.FatalErrorEntry : Prop :=
  ∀ (s : State) (e : ErrorCode), e = .allocationFailure ∨ e = .internalInvariantViolation →
    raiseError e s = { s with
      err := e, fatal := true, done := false, matched := false, dvalid := false, ovalid := false, out := [],
      glueOff := 0, glueLen := 0, pbc := 0, key := [], msg := [], sfx := [], dhex := [], keylen := 0#64, busy := false,
      phase := .fault }

/-! ### Rules over all phases -/

/-- No phase of a running command writes the input buffers or `KEYLEN`, and the termination of every command empties them
(10_state R28, 70 R246). -/
def Obligations.OnlyTerminationClearsTheInputs : Prop :=
  ∀ (s t : State) (i : Instr), s.busy = true → decode (.phase (phaseCode s.phase)) = .instr i → exec i s = .next t →
    (t.busy = true ∧ t.key = s.key ∧ t.msg = s.msg ∧ t.sfx = s.sfx ∧ t.dhex = s.dhex ∧ t.keylen = s.keylen) ∨
    (t.busy = false ∧ t.key = [] ∧ t.msg = [] ∧ t.sfx = [] ∧ t.dhex = [] ∧ t.keylen = 0#64)

/-- Results last until the next write to `CMD` or a reset: no other host action, and no waiting, changes the digest, the
forged message, the attack registers or the status, but for a port write in `IDLE` to a buffer that is full (`BUF_CAP`
long; a longer one exists in no run), which is a fatal error and clears them (70 R247). -/
def Obligations.ResultsLastUntilTheNextIssue : Prop :=
  ∀ s t : State, s.busy = false → s.phase = .idle ∨ s.phase = .fault →
    (∀ rest, s.pending ≠ .hardReset :: rest) → (∀ value rest, s.pending ≠ .write 0x00#8 value :: rest) →
    step s = .next t →
      (t.h = s.h ∧ t.din = s.din ∧ t.out = s.out ∧ t.glueOff = s.glueOff ∧ t.glueLen = s.glueLen ∧ t.pbc = s.pbc ∧
        statusWord t = statusWord s) ∨
      (s.phase = .idle ∧
        (∃ (reg : BitVec 8) (value : BitVec 64) (rest : List HostAction) (buffer : Buffer),
          s.pending = .write reg value :: rest ∧ Config.bufCap ≤ buffer.length ∧
          ((reg = 0x03#8 ∧ buffer = s.key) ∨ (reg = 0x04#8 ∧ buffer = s.msg) ∨ (reg = 0x05#8 ∧ buffer = s.sfx) ∨
            (reg = 0x06#8 ∧ buffer = s.dhex))) ∧
        t.phase = .fault ∧ t.err = .allocationFailure ∧ t.fatal = true ∧ t.done = false ∧ t.matched = false ∧
        t.dvalid = false ∧ t.ovalid = false ∧ t.out = [] ∧ t.glueOff = 0 ∧ t.glueLen = 0 ∧ t.pbc = 0)

/-- Only a reset leaves phase `FAULT`: any other step there changes nothing of CORE (46 R196; 60 R217, R219). -/
def Obligations.OnlyResetLeavesFault : Prop :=
  ∀ s t : State, s.busy = false → s.phase = .fault → step s = .next t →
    t = { s with pending := t.pending, replies := t.replies } ∨
    (statusWord t = 0x00000000#32 ∧ t.phase = .idle ∧
      ∃ rest, s.pending = .hardReset :: rest ∨
        ∃ value : BitVec 64, value.setWidth 32 = 0x80000000#32 ∧ s.pending = .write 0x00#8 value :: rest)

/-- The phase-transition table: each phase's ways out, the error entries among them (46 R191). -/
def Obligations.PhasesFollowTheTransitionTable : Prop :=
  ∀ (s t : State) (i : Instr), s.Inv → s.busy = true → decode (.phase (phaseCode s.phase)) = .instr i →
    exec i s = .next t →
    t.phase ∈ (match s.phase with
      | .decode => if s.cmdreg = 0x1#32 ∨ s.cmdreg = 0x2#32 then [.load]
          else if s.cmdreg = 0x4#32 ∨ s.cmdreg = 0x8#32 then [.parse] else [.idle]
      | .parse => if s.mode = .valmac then [.load, .idle] else [.glue, .idle]
      | .glue => [.load, .idle, .fault]
      | .load => [.pad, .idle, .fault]
      | .pad => [.fetch, .idle, .fault]
      | .fetch => if s.blkidx < s.nblk then [.sched] else [.finish]
      | .sched => [.round]
      | .round => if s.t.val + 1 < 64 then [.round] else [.fold]
      | .fold => [.fetch]
      | .finish => [.idle]
      | .idle => []
      | .fault => [] : List Phase)

/-- "there is no special 'attack mode' inside the compression function": what SCHED, ROUND and FOLD do does not depend on
`MODE`, `PRIOR` or `DIN` (42 R131). -/
def Obligations.CompressionReadsNoModePriorOrDin : Prop :=
  ∀ (i : Instr) (s t : State) (mode : Mode) (prior : Nat) (din : Vector Word 8),
    i = .sched ∨ i = .round ∨ i = .fold → exec i s = .next t →
      exec i { s with mode := mode, prior := prior, din := din } =
        .next { t with mode := mode, prior := prior, din := din }

/-- `ATTACK` never reads `KEY`: two runs of a phase that differ only in `KEY` end in states that differ at most there
(45 R178). -/
def Obligations.AttackNeverReadsTheKey : Prop :=
  ∀ (i : Instr) (s t : State) (key : Buffer), s.mode = .attack →
    i = .parse ∨ i = .glue ∨ i = .load ∨ i = .pad ∨ i = .fetch ∨ i = .sched ∨ i = .round ∨ i = .fold ∨ i = .finish →
    exec i s = .next t →
      ∃ t', exec i { s with key := key } = .next t' ∧ { t' with key := t.key } = t

/-! ### Words, padding, digest text -/

/-- `ROTR` and `SHR` bit by bit (00_scope R16). -/
def Obligations.RotateAndShiftBitByBit : Prop :=
  ∀ (x : Word) (n i : Nat), 0 < n → n < 32 → i < 32 →
    (rotr x n).getLsbD i = x.getLsbD ((i + n) % 32) ∧ (shr x n).getLsbD i = x.getLsbD (i + n) ∧
    (shr x n).toNat = x.toNat / 2 ^ n

/-- The six logical functions bit by bit: `Ch` chooses `y` where `x` is 1 and `z` where it is 0; `Maj` is the value at least
two of the three have; each sigma is the xor of three bits of `x`, a shifted bit being 0 past bit 31 (42 R121, R122,
R123). The functions are general knowledge by these rules' own marks (log 11). -/
def Obligations.LogicalFunctionsBitByBit : Prop :=
  ∀ (x y z : Word) (i : Nat), i < 32 →
    (ch x y z).getLsbD i = (if x.getLsbD i = true then y.getLsbD i else z.getLsbD i) ∧
    ((maj x y z).getLsbD i = true ↔ 2 ≤ List.count true [x.getLsbD i, y.getLsbD i, z.getLsbD i]) ∧
    (smallSigma0 x).getLsbD i =
      Bool.xor (x.getLsbD ((i + 7) % 32)) (Bool.xor (x.getLsbD ((i + 18) % 32)) (x.getLsbD (i + 3))) ∧
    (smallSigma1 x).getLsbD i =
      Bool.xor (x.getLsbD ((i + 17) % 32)) (Bool.xor (x.getLsbD ((i + 19) % 32)) (x.getLsbD (i + 10))) ∧
    (bigSigma0 x).getLsbD i =
      Bool.xor (x.getLsbD ((i + 2) % 32)) (Bool.xor (x.getLsbD ((i + 13) % 32)) (x.getLsbD ((i + 22) % 32))) ∧
    (bigSigma1 x).getLsbD i =
      Bool.xor (x.getLsbD ((i + 6) % 32)) (Bool.xor (x.getLsbD ((i + 11) % 32)) (x.getLsbD ((i + 25) % 32)))

/-- The zero count is the smallest number of zero bytes after which exactly 8 bytes remain in the block (41 R111). -/
def Obligations.ZeroCountIsTheLeast : Prop :=
  ∀ length : Nat,
    (length % 64 ≤ 55 → zeroCount (length % 64) = 55 - length % 64) ∧
    (56 ≤ length % 64 → zeroCount (length % 64) = 119 - length % 64) ∧
    (length + 1 + zeroCount (length % 64)) % 64 = 56 ∧ zeroCount (length % 64) ≤ 63 ∧
    ∀ z, z < zeroCount (length % 64) → (length + 1 + z) % 64 ≠ 56

/-- The padding: `0x80`, the zeros, and 8 bytes that spell `8 * totalLen` big-endian (41 R110, 20 R52). -/
def Obligations.PaddingBytesAndLengthField : Prop :=
  ∀ (base total : Nat), 8 * total < 2 ^ 64 →
    (padBytes base total).length = 9 + zeroCount (base % 64) ∧ (padBytes base total)[0]? = some 0x80#8 ∧
    (∀ k, 1 ≤ k → k ≤ zeroCount (base % 64) → (padBytes base total)[k]? = some 0x00#8) ∧
    (∀ c : Fin 8, ∃ b : Byte, (padBytes base total)[1 + zeroCount (base % 64) + c.val]? = some b ∧
      b.toNat = 8 * total / 2 ^ (8 * (7 - c.val)) % 256)

/-- The padded length is the smallest multiple of 64 that is at least `L + 9`, whatever the prior length (41 R114).
The spec defines the padding for `L` plus the prior length below 2^61; beyond, that it has the same length is of the
model's extension of it by a free length field (log 22). -/
def Obligations.PaddedLengthIsTheLeastMultiple : Prop :=
  ∀ (message : Buffer) (prior : Nat),
    (padded message prior).length = message.length + 9 + zeroCount (message.length % 64) ∧
    (padded message prior).length = 64 * ((message.length + 9 + 63) / 64) ∧
    (padded message prior).length % 64 = 0 ∧ message.length + 9 ≤ (padded message prior).length ∧
    (∀ n, n % 64 = 0 → message.length + 9 ≤ n → (padded message prior).length ≤ n) ∧
    (padded message prior).length / 64 = (message.length + 9 + 63) / 64 ∧ 1 ≤ (padded message prior).length / 64

/-- The glue and the prior block count as functions of `T` (45 R172). -/
def Obligations.GlueIsThePaddingOfTheWhole : Prop :=
  ∀ total : Nat, total < 2 ^ 61 →
    glueBytes total = padBytes total total ∧
    glueBytes total = 0x80#8 :: (List.replicate (zeroCount (total % 64)) 0x00#8 ++ be64Bytes (8 * total)) ∧
    total + (glueBytes total).length = 64 * ((total + 9 + 63) / 64) ∧
    priorBlockCount total = (total + (glueBytes total).length) / 64 ∧
    priorBlockCount total = (total + 9 + 63) / 64 ∧ 9 ≤ (glueBytes total).length ∧ (glueBytes total).length ≤ 72

/-- `RenderDigest(D)` is 64 characters, character `k` the lower-case hexadecimal digit of nibble
`D[k div 8][31 - 4*(k mod 8) : 28 - 4*(k mod 8)]` (30 R80, R81), and `ParseDigest(RenderDigest(D)) = D` for every `D`
(44 R157). -/
def Obligations.RenderedTextAndItsParse : Prop :=
  ∀ d : Vector Word 8,
    (renderDigest d).length = 64 ∧
    (∀ (k : Fin 64) (digit : Nat),
      digit = ((d[k.val / 8]).extractLsb' (28 - 4 * (k.val % 8)) 4).toNat →
        ∃ c : Byte, (renderDigest d)[k.val]? = some c ∧ digit < 16 ∧ (digit ≤ 9 → c.toNat = 0x30 + digit) ∧
          (10 ≤ digit → c.toNat = 0x61 + (digit - 10))) ∧
    parseDigest (renderDigest d) = some d

/-! ### The hash and the commands, run to their end -/

/-- From SCHED, 1 + 64 + 1 phase steps leave `compress(H, BLOCK)` in `H`, with only the engine's scratch, `BLKIDX` and
`PHASE` changed beside it (42 R130). The number of steps counts the spec's phase steps and is no claim about time. -/
def Obligations.CompressionRunsSchedRoundsFold : Prop :=
  ∀ s : State, s.busy = true → s.phase = .sched → hostWaits s.pending = true →
    ∃ t, run 66 s = .next t ∧
      t = { s with h := compress s.h s.block, blkidx := s.blkidx + 1, phase := .fetch, w := t.w, v := t.v, t := t.t }

/-- `CHECKSUM`, run to its end from the host's write: `H` is the hash of `MSG` (43 R147, R145; 46 R198). -/
def Obligations.ChecksumRunsToItsDigest : Prop :=
  ∀ (s : State) (rest : List HostAction), s.busy = false → s.phase = .idle →
    s.pending = .write 0x00#8 0x00000001#64 :: rest → hostWaits rest = true →
    (padded s.msg 0).length ≤ Config.bufCap →
      ∃ n t, run n s = .next t ∧ t.h = hash s.msg 0 initialValue ∧ t.phase = .idle ∧ t.busy = false ∧ t.done = true ∧
        t.dvalid = true ∧ t.matched = false ∧ t.ovalid = false ∧ t.err = .none ∧ t.mode = .checksum ∧ t.key = [] ∧
        t.msg = [] ∧ t.sfx = [] ∧ t.dhex = [] ∧ t.keylen = 0#64 ∧ t.out = [] ∧ t.outAddr = s.outAddr ∧
        t.pending = rest

/-- `GENMAC`, run to its end: `H` is the hash of `KEY ‖ MSG` (44 R158; 46 R198). -/
def Obligations.GenmacRunsToItsMac : Prop :=
  ∀ (s : State) (rest : List HostAction), s.busy = false → s.phase = .idle →
    s.pending = .write 0x00#8 0x00000002#64 :: rest → hostWaits rest = true →
    (padded (s.key ++ s.msg) 0).length ≤ Config.bufCap →
      ∃ n t, run n s = .next t ∧ t.h = hash (s.key ++ s.msg) 0 initialValue ∧ t.phase = .idle ∧ t.busy = false ∧
        t.done = true ∧ t.dvalid = true ∧ t.matched = false ∧ t.ovalid = false ∧ t.err = .none ∧ t.mode = .genmac ∧
        t.key = [] ∧ t.msg = [] ∧ t.sfx = [] ∧ t.dhex = [] ∧ t.keylen = 0#64 ∧ t.out = [] ∧ t.outAddr = s.outAddr ∧
        t.pending = rest

/-- `VALMAC`, run to its end on a well-formed claimed digest: `MATCH` says whether the recomputed MAC equals it, and a
mismatch is not an error (44 R159, R160; 60 R215; 46 R198). -/
def Obligations.ValmacRunsToItsVerdict : Prop :=
  ∀ (s : State) (rest : List HostAction) (claimed : Vector Word 8), s.busy = false → s.phase = .idle →
    s.pending = .write 0x00#8 0x00000004#64 :: rest → hostWaits rest = true → parseDigest s.dhex = some claimed →
    (padded (s.key ++ s.msg) 0).length ≤ Config.bufCap →
      ∃ n t, run n s = .next t ∧ t.h = hash (s.key ++ s.msg) 0 initialValue ∧
        (t.matched = true ↔ hash (s.key ++ s.msg) 0 initialValue = claimed) ∧ t.din = claimed ∧ t.phase = .idle ∧
        t.busy = false ∧ t.done = true ∧ t.dvalid = true ∧ t.ovalid = false ∧ t.err = .none ∧ t.mode = .valmac ∧
        t.key = [] ∧ t.msg = [] ∧ t.sfx = [] ∧ t.dhex = [] ∧ t.keylen = 0#64 ∧ t.out = [] ∧ t.outAddr = s.outAddr ∧
        t.pending = rest

/-- `VALMAC` accepts the MAC that `GENMAC` computes for the same key and message (44 R161 (b)). -/
def Obligations.ValmacAcceptsTheGeneratedMac : Prop :=
  ∀ (s : State) (rest : List HostAction), s.busy = false → s.phase = .idle →
    s.pending = .write 0x00#8 0x00000004#64 :: rest → hostWaits rest = true →
    s.dhex = renderDigest (hash (s.key ++ s.msg) 0 initialValue) →
    (padded (s.key ++ s.msg) 0).length ≤ Config.bufCap →
      ∃ n t, run n s = .next t ∧ t.busy = false ∧ t.done = true ∧ t.matched = true ∧ t.err = .none

/-- `ATTACK`, run to its end: the forged digest in `H`, the forged message in `OUT`, and where its glue lies (45 R175;
46 R198). -/
def Obligations.AttackRunsToTheForgery : Prop :=
  ∀ (s : State) (rest : List HostAction) (leaked : Vector Word 8) (total : Nat), s.busy = false → s.phase = .idle →
    s.pending = .write 0x00#8 0x00000008#64 :: rest → hostWaits rest = true → parseDigest s.dhex = some leaked →
    s.keylen ≠ 0#64 → total = s.keylen.toNat + s.msg.length → total < 2 ^ 61 →
    s.msg.length + (glueBytes total).length + s.sfx.length ≤ Config.bufCap →
    s.sfx.length + 64 * priorBlockCount total < 2 ^ 61 →
    (padded s.sfx (64 * priorBlockCount total)).length ≤ Config.bufCap →
      ∃ n t, run n s = .next t ∧ t.h = hash s.sfx (64 * priorBlockCount total) leaked ∧
        t.out = s.msg ++ glueBytes total ++ s.sfx ∧ t.pbc = priorBlockCount total ∧ t.glueOff = s.msg.length ∧
        t.glueLen = (glueBytes total).length ∧ t.phase = .idle ∧ t.busy = false ∧ t.done = true ∧ t.dvalid = true ∧
        t.ovalid = true ∧ t.matched = false ∧ t.err = .none ∧ t.mode = .attack ∧ t.key = [] ∧ t.msg = [] ∧
        t.sfx = [] ∧ t.dhex = [] ∧ t.keylen = 0#64 ∧ t.outAddr = s.outAddr ∧ t.pending = rest

/-- Every running command ends, in FINISH or in an error entry, if the host leaves it alone: within the phase steps of
70 R249 for the largest `NBLK`. A bound on the spec's phase steps, no claim about time. -/
def Obligations.EveryRunningCommandEnds : Prop :=
  ∀ s : State, s.Inv → s.busy = true → hostWaits s.pending = true →
    ∃ n t, n ≤ 7 + 67 * (Config.bufCap / 64) ∧ run n s = .next t ∧ t.busy = false

/-- The length-extension property: the hash resumed from the leaked MAC over the suffix alone is the MAC of the forged
message under the unknown key (45 R176). The spec defines `hash` for total lengths below 2^61 bytes; beyond, the statement
is of the model's extension of it by a free length field, whatever that holds (log 22). -/
def Obligations.LengthExtensionForgesTheMac : Prop :=
  ∀ (key message suffix : Buffer) (total : Nat), total = key.length + message.length →
    hash (key ++ (message ++ glueBytes total ++ suffix)) 0 initialValue =
      hash suffix (64 * priorBlockCount total) (hash (key ++ message) 0 initialValue)
end

