-- ==== Sys2Proof/Laws/State.lean ====
section
/-! SUPPORT. One lemma per field and named state update: what each leaves in each field. -/

namespace Sys2Proof.Machine

/-! ### clearInputs -/

section
variable (s : State)

@[simp] theorem clearInputs_phase : (clearInputs s).phase = s.phase := rfl
@[simp] theorem clearInputs_busy : (clearInputs s).busy = s.busy := rfl
@[simp] theorem clearInputs_done : (clearInputs s).done = s.done := rfl
@[simp] theorem clearInputs_matched : (clearInputs s).matched = s.matched := rfl
@[simp] theorem clearInputs_fatal : (clearInputs s).fatal = s.fatal := rfl
@[simp] theorem clearInputs_err : (clearInputs s).err = s.err := rfl
@[simp] theorem clearInputs_mode : (clearInputs s).mode = s.mode := rfl
@[simp] theorem clearInputs_dvalid : (clearInputs s).dvalid = s.dvalid := rfl
@[simp] theorem clearInputs_ovalid : (clearInputs s).ovalid = s.ovalid := rfl
@[simp] theorem clearInputs_cmdreg : (clearInputs s).cmdreg = s.cmdreg := rfl
@[simp] theorem clearInputs_keylen : (clearInputs s).keylen = 0#64 := rfl
@[simp] theorem clearInputs_key : (clearInputs s).key = [] := rfl
@[simp] theorem clearInputs_msg : (clearInputs s).msg = [] := rfl
@[simp] theorem clearInputs_sfx : (clearInputs s).sfx = [] := rfl
@[simp] theorem clearInputs_dhex : (clearInputs s).dhex = [] := rfl
@[simp] theorem clearInputs_work : (clearInputs s).work = s.work := rfl
@[simp] theorem clearInputs_out : (clearInputs s).out = s.out := rfl
@[simp] theorem clearInputs_block : (clearInputs s).block = s.block := rfl
@[simp] theorem clearInputs_h : (clearInputs s).h = s.h := rfl
@[simp] theorem clearInputs_v : (clearInputs s).v = s.v := rfl
@[simp] theorem clearInputs_w : (clearInputs s).w = s.w := rfl
@[simp] theorem clearInputs_din : (clearInputs s).din = s.din := rfl
@[simp] theorem clearInputs_prior : (clearInputs s).prior = s.prior := rfl
@[simp] theorem clearInputs_pbc : (clearInputs s).pbc = s.pbc := rfl
@[simp] theorem clearInputs_nblk : (clearInputs s).nblk = s.nblk := rfl
@[simp] theorem clearInputs_blkidx : (clearInputs s).blkidx = s.blkidx := rfl
@[simp] theorem clearInputs_glueOff : (clearInputs s).glueOff = s.glueOff := rfl
@[simp] theorem clearInputs_glueLen : (clearInputs s).glueLen = s.glueLen := rfl
@[simp] theorem clearInputs_outAddr : (clearInputs s).outAddr = s.outAddr := rfl
@[simp] theorem clearInputs_t : (clearInputs s).t = s.t := rfl
@[simp] theorem clearInputs_pending : (clearInputs s).pending = s.pending := rfl
@[simp] theorem clearInputs_replies : (clearInputs s).replies = s.replies := rfl
@[simp] theorem clearInputs_fresh : (clearInputs s).fresh = s.fresh := rfl

end

/-! ### clearAttackResults -/

section
variable (s : State)

@[simp] theorem clearAttackResults_phase : (clearAttackResults s).phase = s.phase := rfl
@[simp] theorem clearAttackResults_busy : (clearAttackResults s).busy = s.busy := rfl
@[simp] theorem clearAttackResults_done : (clearAttackResults s).done = s.done := rfl
@[simp] theorem clearAttackResults_matched : (clearAttackResults s).matched = s.matched := rfl
@[simp] theorem clearAttackResults_fatal : (clearAttackResults s).fatal = s.fatal := rfl
@[simp] theorem clearAttackResults_err : (clearAttackResults s).err = s.err := rfl
@[simp] theorem clearAttackResults_mode : (clearAttackResults s).mode = s.mode := rfl
@[simp] theorem clearAttackResults_dvalid : (clearAttackResults s).dvalid = s.dvalid := rfl
@[simp] theorem clearAttackResults_ovalid : (clearAttackResults s).ovalid = s.ovalid := rfl
@[simp] theorem clearAttackResults_cmdreg : (clearAttackResults s).cmdreg = s.cmdreg := rfl
@[simp] theorem clearAttackResults_keylen : (clearAttackResults s).keylen = s.keylen := rfl
@[simp] theorem clearAttackResults_key : (clearAttackResults s).key = s.key := rfl
@[simp] theorem clearAttackResults_msg : (clearAttackResults s).msg = s.msg := rfl
@[simp] theorem clearAttackResults_sfx : (clearAttackResults s).sfx = s.sfx := rfl
@[simp] theorem clearAttackResults_dhex : (clearAttackResults s).dhex = s.dhex := rfl
@[simp] theorem clearAttackResults_work : (clearAttackResults s).work = s.work := rfl
@[simp] theorem clearAttackResults_out : (clearAttackResults s).out = [] := rfl
@[simp] theorem clearAttackResults_block : (clearAttackResults s).block = s.block := rfl
@[simp] theorem clearAttackResults_h : (clearAttackResults s).h = s.h := rfl
@[simp] theorem clearAttackResults_v : (clearAttackResults s).v = s.v := rfl
@[simp] theorem clearAttackResults_w : (clearAttackResults s).w = s.w := rfl
@[simp] theorem clearAttackResults_din : (clearAttackResults s).din = s.din := rfl
@[simp] theorem clearAttackResults_prior : (clearAttackResults s).prior = s.prior := rfl
@[simp] theorem clearAttackResults_pbc : (clearAttackResults s).pbc = 0 := rfl
@[simp] theorem clearAttackResults_nblk : (clearAttackResults s).nblk = s.nblk := rfl
@[simp] theorem clearAttackResults_blkidx : (clearAttackResults s).blkidx = s.blkidx := rfl
@[simp] theorem clearAttackResults_glueOff : (clearAttackResults s).glueOff = 0 := rfl
@[simp] theorem clearAttackResults_glueLen : (clearAttackResults s).glueLen = 0 := rfl
@[simp] theorem clearAttackResults_outAddr : (clearAttackResults s).outAddr = s.outAddr := rfl
@[simp] theorem clearAttackResults_t : (clearAttackResults s).t = s.t := rfl
@[simp] theorem clearAttackResults_pending : (clearAttackResults s).pending = s.pending := rfl
@[simp] theorem clearAttackResults_replies : (clearAttackResults s).replies = s.replies := rfl
@[simp] theorem clearAttackResults_fresh : (clearAttackResults s).fresh = s.fresh := rfl

end

/-! ### enterNonFatal -/

section
variable (e : ErrorCode) (s : State)

@[simp] theorem enterNonFatal_phase : (enterNonFatal e s).phase = .idle := rfl
@[simp] theorem enterNonFatal_busy : (enterNonFatal e s).busy = false := rfl
@[simp] theorem enterNonFatal_done : (enterNonFatal e s).done = false := rfl
@[simp] theorem enterNonFatal_matched : (enterNonFatal e s).matched = false := rfl
@[simp] theorem enterNonFatal_fatal : (enterNonFatal e s).fatal = s.fatal := rfl
@[simp] theorem enterNonFatal_err : (enterNonFatal e s).err = e := rfl
@[simp] theorem enterNonFatal_mode : (enterNonFatal e s).mode = s.mode := rfl
@[simp] theorem enterNonFatal_dvalid : (enterNonFatal e s).dvalid = false := rfl
@[simp] theorem enterNonFatal_ovalid : (enterNonFatal e s).ovalid = false := rfl
@[simp] theorem enterNonFatal_cmdreg : (enterNonFatal e s).cmdreg = s.cmdreg := rfl
@[simp] theorem enterNonFatal_keylen : (enterNonFatal e s).keylen = 0#64 := rfl
@[simp] theorem enterNonFatal_key : (enterNonFatal e s).key = [] := rfl
@[simp] theorem enterNonFatal_msg : (enterNonFatal e s).msg = [] := rfl
@[simp] theorem enterNonFatal_sfx : (enterNonFatal e s).sfx = [] := rfl
@[simp] theorem enterNonFatal_dhex : (enterNonFatal e s).dhex = [] := rfl
@[simp] theorem enterNonFatal_work : (enterNonFatal e s).work = s.work := rfl
@[simp] theorem enterNonFatal_out : (enterNonFatal e s).out = [] := rfl
@[simp] theorem enterNonFatal_block : (enterNonFatal e s).block = s.block := rfl
@[simp] theorem enterNonFatal_h : (enterNonFatal e s).h = s.h := rfl
@[simp] theorem enterNonFatal_v : (enterNonFatal e s).v = s.v := rfl
@[simp] theorem enterNonFatal_w : (enterNonFatal e s).w = s.w := rfl
@[simp] theorem enterNonFatal_din : (enterNonFatal e s).din = s.din := rfl
@[simp] theorem enterNonFatal_prior : (enterNonFatal e s).prior = s.prior := rfl
@[simp] theorem enterNonFatal_pbc : (enterNonFatal e s).pbc = 0 := rfl
@[simp] theorem enterNonFatal_nblk : (enterNonFatal e s).nblk = s.nblk := rfl
@[simp] theorem enterNonFatal_blkidx : (enterNonFatal e s).blkidx = s.blkidx := rfl
@[simp] theorem enterNonFatal_glueOff : (enterNonFatal e s).glueOff = 0 := rfl
@[simp] theorem enterNonFatal_glueLen : (enterNonFatal e s).glueLen = 0 := rfl
@[simp] theorem enterNonFatal_outAddr : (enterNonFatal e s).outAddr = s.outAddr := rfl
@[simp] theorem enterNonFatal_t : (enterNonFatal e s).t = s.t := rfl
@[simp] theorem enterNonFatal_pending : (enterNonFatal e s).pending = s.pending := rfl
@[simp] theorem enterNonFatal_replies : (enterNonFatal e s).replies = s.replies := rfl
@[simp] theorem enterNonFatal_fresh : (enterNonFatal e s).fresh = s.fresh := rfl

end

/-! ### enterFatal -/

section
variable (e : ErrorCode) (s : State)

@[simp] theorem enterFatal_phase : (enterFatal e s).phase = .fault := rfl
@[simp] theorem enterFatal_busy : (enterFatal e s).busy = false := rfl
@[simp] theorem enterFatal_done : (enterFatal e s).done = false := rfl
@[simp] theorem enterFatal_matched : (enterFatal e s).matched = false := rfl
@[simp] theorem enterFatal_fatal : (enterFatal e s).fatal = true := rfl
@[simp] theorem enterFatal_err : (enterFatal e s).err = e := rfl
@[simp] theorem enterFatal_mode : (enterFatal e s).mode = s.mode := rfl
@[simp] theorem enterFatal_dvalid : (enterFatal e s).dvalid = false := rfl
@[simp] theorem enterFatal_ovalid : (enterFatal e s).ovalid = false := rfl
@[simp] theorem enterFatal_cmdreg : (enterFatal e s).cmdreg = s.cmdreg := rfl
@[simp] theorem enterFatal_keylen : (enterFatal e s).keylen = 0#64 := rfl
@[simp] theorem enterFatal_key : (enterFatal e s).key = [] := rfl
@[simp] theorem enterFatal_msg : (enterFatal e s).msg = [] := rfl
@[simp] theorem enterFatal_sfx : (enterFatal e s).sfx = [] := rfl
@[simp] theorem enterFatal_dhex : (enterFatal e s).dhex = [] := rfl
@[simp] theorem enterFatal_work : (enterFatal e s).work = s.work := rfl
@[simp] theorem enterFatal_out : (enterFatal e s).out = [] := rfl
@[simp] theorem enterFatal_block : (enterFatal e s).block = s.block := rfl
@[simp] theorem enterFatal_h : (enterFatal e s).h = s.h := rfl
@[simp] theorem enterFatal_v : (enterFatal e s).v = s.v := rfl
@[simp] theorem enterFatal_w : (enterFatal e s).w = s.w := rfl
@[simp] theorem enterFatal_din : (enterFatal e s).din = s.din := rfl
@[simp] theorem enterFatal_prior : (enterFatal e s).prior = s.prior := rfl
@[simp] theorem enterFatal_pbc : (enterFatal e s).pbc = 0 := rfl
@[simp] theorem enterFatal_nblk : (enterFatal e s).nblk = s.nblk := rfl
@[simp] theorem enterFatal_blkidx : (enterFatal e s).blkidx = s.blkidx := rfl
@[simp] theorem enterFatal_glueOff : (enterFatal e s).glueOff = 0 := rfl
@[simp] theorem enterFatal_glueLen : (enterFatal e s).glueLen = 0 := rfl
@[simp] theorem enterFatal_outAddr : (enterFatal e s).outAddr = s.outAddr := rfl
@[simp] theorem enterFatal_t : (enterFatal e s).t = s.t := rfl
@[simp] theorem enterFatal_pending : (enterFatal e s).pending = s.pending := rfl
@[simp] theorem enterFatal_replies : (enterFatal e s).replies = s.replies := rfl
@[simp] theorem enterFatal_fresh : (enterFatal e s).fresh = s.fresh := rfl

end

/-! ### applyReset -/

section
variable (s : State)

@[simp] theorem applyReset_phase : (applyReset s).phase = .idle := rfl
@[simp] theorem applyReset_busy : (applyReset s).busy = false := rfl
@[simp] theorem applyReset_done : (applyReset s).done = false := rfl
@[simp] theorem applyReset_matched : (applyReset s).matched = false := rfl
@[simp] theorem applyReset_fatal : (applyReset s).fatal = false := rfl
@[simp] theorem applyReset_err : (applyReset s).err = .none := rfl
@[simp] theorem applyReset_mode : (applyReset s).mode = .none := rfl
@[simp] theorem applyReset_dvalid : (applyReset s).dvalid = false := rfl
@[simp] theorem applyReset_ovalid : (applyReset s).ovalid = false := rfl
@[simp] theorem applyReset_cmdreg : (applyReset s).cmdreg = 0#32 := rfl
@[simp] theorem applyReset_keylen : (applyReset s).keylen = 0#64 := rfl
@[simp] theorem applyReset_key : (applyReset s).key = [] := rfl
@[simp] theorem applyReset_msg : (applyReset s).msg = [] := rfl
@[simp] theorem applyReset_sfx : (applyReset s).sfx = [] := rfl
@[simp] theorem applyReset_dhex : (applyReset s).dhex = [] := rfl
@[simp] theorem applyReset_work : (applyReset s).work = (Config.freeWork s.fresh).take Config.bufCap := rfl
@[simp] theorem applyReset_out : (applyReset s).out = [] := rfl
@[simp] theorem applyReset_block : (applyReset s).block = Vector.ofFn (Config.freeBlock s.fresh) := rfl
@[simp] theorem applyReset_h : (applyReset s).h = Vector.replicate 8 0#32 := rfl
@[simp] theorem applyReset_v : (applyReset s).v = Vector.ofFn (Config.freeV s.fresh) := rfl
@[simp] theorem applyReset_w : (applyReset s).w = Vector.ofFn (Config.freeW s.fresh) := rfl
@[simp] theorem applyReset_din : (applyReset s).din = Vector.replicate 8 0#32 := rfl
@[simp] theorem applyReset_prior : (applyReset s).prior = (Config.freePrior s.fresh).toNat := rfl
@[simp] theorem applyReset_pbc : (applyReset s).pbc = 0 := rfl
@[simp] theorem applyReset_nblk : (applyReset s).nblk = (Config.freeNblk s.fresh).toNat := rfl
@[simp] theorem applyReset_blkidx : (applyReset s).blkidx = (Config.freeBlkidx s.fresh).toNat := rfl
@[simp] theorem applyReset_glueOff : (applyReset s).glueOff = 0 := rfl
@[simp] theorem applyReset_glueLen : (applyReset s).glueLen = 0 := rfl
@[simp] theorem applyReset_outAddr : (applyReset s).outAddr = 0#64 := rfl
@[simp] theorem applyReset_t : (applyReset s).t = Config.freeT s.fresh := rfl
@[simp] theorem applyReset_pending : (applyReset s).pending = s.pending := rfl
@[simp] theorem applyReset_replies : (applyReset s).replies = s.replies := rfl
@[simp] theorem applyReset_fresh : (applyReset s).fresh = s.fresh + 1 := rfl

end

/-! ### holdWrite -/

section
variable (reg : BitVec 8) (value : BitVec 64) (s : State)

@[simp] theorem holdWrite_phase : (holdWrite reg value s).phase = s.phase := rfl
@[simp] theorem holdWrite_busy : (holdWrite reg value s).busy = s.busy := rfl
@[simp] theorem holdWrite_done : (holdWrite reg value s).done = s.done := rfl
@[simp] theorem holdWrite_matched : (holdWrite reg value s).matched = s.matched := rfl
@[simp] theorem holdWrite_fatal : (holdWrite reg value s).fatal = s.fatal := rfl
@[simp] theorem holdWrite_err : (holdWrite reg value s).err = s.err := rfl
@[simp] theorem holdWrite_mode : (holdWrite reg value s).mode = s.mode := rfl
@[simp] theorem holdWrite_dvalid : (holdWrite reg value s).dvalid = s.dvalid := rfl
@[simp] theorem holdWrite_ovalid : (holdWrite reg value s).ovalid = s.ovalid := rfl
@[simp] theorem holdWrite_cmdreg : (holdWrite reg value s).cmdreg = s.cmdreg := rfl
@[simp] theorem holdWrite_keylen : (holdWrite reg value s).keylen = s.keylen := rfl
@[simp] theorem holdWrite_key : (holdWrite reg value s).key = s.key := rfl
@[simp] theorem holdWrite_msg : (holdWrite reg value s).msg = s.msg := rfl
@[simp] theorem holdWrite_sfx : (holdWrite reg value s).sfx = s.sfx := rfl
@[simp] theorem holdWrite_dhex : (holdWrite reg value s).dhex = s.dhex := rfl
@[simp] theorem holdWrite_work : (holdWrite reg value s).work = s.work := rfl
@[simp] theorem holdWrite_out : (holdWrite reg value s).out = s.out := rfl
@[simp] theorem holdWrite_block : (holdWrite reg value s).block = s.block := rfl
@[simp] theorem holdWrite_h : (holdWrite reg value s).h = s.h := rfl
@[simp] theorem holdWrite_v : (holdWrite reg value s).v = s.v := rfl
@[simp] theorem holdWrite_w : (holdWrite reg value s).w = s.w := rfl
@[simp] theorem holdWrite_din : (holdWrite reg value s).din = s.din := rfl
@[simp] theorem holdWrite_prior : (holdWrite reg value s).prior = s.prior := rfl
@[simp] theorem holdWrite_pbc : (holdWrite reg value s).pbc = s.pbc := rfl
@[simp] theorem holdWrite_nblk : (holdWrite reg value s).nblk = s.nblk := rfl
@[simp] theorem holdWrite_blkidx : (holdWrite reg value s).blkidx = s.blkidx := rfl
@[simp] theorem holdWrite_glueOff : (holdWrite reg value s).glueOff = s.glueOff := rfl
@[simp] theorem holdWrite_glueLen : (holdWrite reg value s).glueLen = s.glueLen := rfl
@[simp] theorem holdWrite_outAddr : (holdWrite reg value s).outAddr = s.outAddr := rfl
@[simp] theorem holdWrite_t : (holdWrite reg value s).t = s.t := rfl
@[simp] theorem holdWrite_pending : (holdWrite reg value s).pending = .write reg value :: s.pending := rfl
@[simp] theorem holdWrite_replies : (holdWrite reg value s).replies = s.replies := rfl
@[simp] theorem holdWrite_fresh : (holdWrite reg value s).fresh = s.fresh := rfl

end

/-! ### issueCommand -/

section
variable (word : BitVec 32) (s : State)

@[simp] theorem issueCommand_phase : (issueCommand word s).phase = .decode := rfl
@[simp] theorem issueCommand_busy : (issueCommand word s).busy = true := rfl
@[simp] theorem issueCommand_done : (issueCommand word s).done = false := rfl
@[simp] theorem issueCommand_matched : (issueCommand word s).matched = false := rfl
@[simp] theorem issueCommand_fatal : (issueCommand word s).fatal = s.fatal := rfl
@[simp] theorem issueCommand_err : (issueCommand word s).err = .none := rfl
@[simp] theorem issueCommand_mode : (issueCommand word s).mode = .none := rfl
@[simp] theorem issueCommand_dvalid : (issueCommand word s).dvalid = false := rfl
@[simp] theorem issueCommand_ovalid : (issueCommand word s).ovalid = false := rfl
@[simp] theorem issueCommand_cmdreg : (issueCommand word s).cmdreg = word := rfl
@[simp] theorem issueCommand_keylen : (issueCommand word s).keylen = s.keylen := rfl
@[simp] theorem issueCommand_key : (issueCommand word s).key = s.key := rfl
@[simp] theorem issueCommand_msg : (issueCommand word s).msg = s.msg := rfl
@[simp] theorem issueCommand_sfx : (issueCommand word s).sfx = s.sfx := rfl
@[simp] theorem issueCommand_dhex : (issueCommand word s).dhex = s.dhex := rfl
@[simp] theorem issueCommand_work : (issueCommand word s).work = s.work := rfl
@[simp] theorem issueCommand_out : (issueCommand word s).out = [] := rfl
@[simp] theorem issueCommand_block : (issueCommand word s).block = s.block := rfl
@[simp] theorem issueCommand_h : (issueCommand word s).h = s.h := rfl
@[simp] theorem issueCommand_v : (issueCommand word s).v = s.v := rfl
@[simp] theorem issueCommand_w : (issueCommand word s).w = s.w := rfl
@[simp] theorem issueCommand_din : (issueCommand word s).din = s.din := rfl
@[simp] theorem issueCommand_prior : (issueCommand word s).prior = s.prior := rfl
@[simp] theorem issueCommand_pbc : (issueCommand word s).pbc = 0 := rfl
@[simp] theorem issueCommand_nblk : (issueCommand word s).nblk = s.nblk := rfl
@[simp] theorem issueCommand_blkidx : (issueCommand word s).blkidx = s.blkidx := rfl
@[simp] theorem issueCommand_glueOff : (issueCommand word s).glueOff = 0 := rfl
@[simp] theorem issueCommand_glueLen : (issueCommand word s).glueLen = 0 := rfl
@[simp] theorem issueCommand_outAddr : (issueCommand word s).outAddr = s.outAddr := rfl
@[simp] theorem issueCommand_t : (issueCommand word s).t = s.t := rfl
@[simp] theorem issueCommand_pending : (issueCommand word s).pending = s.pending := rfl
@[simp] theorem issueCommand_replies : (issueCommand word s).replies = s.replies := rfl
@[simp] theorem issueCommand_fresh : (issueCommand word s).fresh = s.fresh := rfl

end

/-! ### completeRead -/

section
variable (reg : BitVec 8) (s : State)

@[simp] theorem completeRead_phase : (completeRead reg s).phase = s.phase := rfl
@[simp] theorem completeRead_busy : (completeRead reg s).busy = s.busy := rfl
@[simp] theorem completeRead_done : (completeRead reg s).done = s.done := rfl
@[simp] theorem completeRead_matched : (completeRead reg s).matched = s.matched := rfl
@[simp] theorem completeRead_fatal : (completeRead reg s).fatal = s.fatal := rfl
@[simp] theorem completeRead_err : (completeRead reg s).err = s.err := rfl
@[simp] theorem completeRead_mode : (completeRead reg s).mode = s.mode := rfl
@[simp] theorem completeRead_dvalid : (completeRead reg s).dvalid = s.dvalid := rfl
@[simp] theorem completeRead_ovalid : (completeRead reg s).ovalid = s.ovalid := rfl
@[simp] theorem completeRead_cmdreg : (completeRead reg s).cmdreg = s.cmdreg := rfl
@[simp] theorem completeRead_keylen : (completeRead reg s).keylen = s.keylen := rfl
@[simp] theorem completeRead_key : (completeRead reg s).key = s.key := rfl
@[simp] theorem completeRead_msg : (completeRead reg s).msg = s.msg := rfl
@[simp] theorem completeRead_sfx : (completeRead reg s).sfx = s.sfx := rfl
@[simp] theorem completeRead_dhex : (completeRead reg s).dhex = s.dhex := rfl
@[simp] theorem completeRead_work : (completeRead reg s).work = s.work := rfl
@[simp] theorem completeRead_out : (completeRead reg s).out = s.out := rfl
@[simp] theorem completeRead_block : (completeRead reg s).block = s.block := rfl
@[simp] theorem completeRead_h : (completeRead reg s).h = s.h := rfl
@[simp] theorem completeRead_v : (completeRead reg s).v = s.v := rfl
@[simp] theorem completeRead_w : (completeRead reg s).w = s.w := rfl
@[simp] theorem completeRead_din : (completeRead reg s).din = s.din := rfl
@[simp] theorem completeRead_prior : (completeRead reg s).prior = s.prior := rfl
@[simp] theorem completeRead_pbc : (completeRead reg s).pbc = s.pbc := rfl
@[simp] theorem completeRead_nblk : (completeRead reg s).nblk = s.nblk := rfl
@[simp] theorem completeRead_blkidx : (completeRead reg s).blkidx = s.blkidx := rfl
@[simp] theorem completeRead_glueOff : (completeRead reg s).glueOff = s.glueOff := rfl
@[simp] theorem completeRead_glueLen : (completeRead reg s).glueLen = s.glueLen := rfl
@[simp] theorem completeRead_outAddr : (completeRead reg s).outAddr = s.outAddr := rfl
@[simp] theorem completeRead_t : (completeRead reg s).t = s.t := rfl
@[simp] theorem completeRead_pending : (completeRead reg s).pending = s.pending := rfl
@[simp] theorem completeRead_replies : (completeRead reg s).replies = ⟨reg, hostRead reg s⟩ :: s.replies := rfl
@[simp] theorem completeRead_fresh : (completeRead reg s).fresh = s.fresh := rfl

end

/-! ### afterTurn -/

section
variable (s : State)

@[simp] theorem afterTurn_phase : (afterTurn s).phase = s.phase := rfl
@[simp] theorem afterTurn_busy : (afterTurn s).busy = s.busy := rfl
@[simp] theorem afterTurn_done : (afterTurn s).done = s.done := rfl
@[simp] theorem afterTurn_matched : (afterTurn s).matched = s.matched := rfl
@[simp] theorem afterTurn_fatal : (afterTurn s).fatal = s.fatal := rfl
@[simp] theorem afterTurn_err : (afterTurn s).err = s.err := rfl
@[simp] theorem afterTurn_mode : (afterTurn s).mode = s.mode := rfl
@[simp] theorem afterTurn_dvalid : (afterTurn s).dvalid = s.dvalid := rfl
@[simp] theorem afterTurn_ovalid : (afterTurn s).ovalid = s.ovalid := rfl
@[simp] theorem afterTurn_cmdreg : (afterTurn s).cmdreg = s.cmdreg := rfl
@[simp] theorem afterTurn_keylen : (afterTurn s).keylen = s.keylen := rfl
@[simp] theorem afterTurn_key : (afterTurn s).key = s.key := rfl
@[simp] theorem afterTurn_msg : (afterTurn s).msg = s.msg := rfl
@[simp] theorem afterTurn_sfx : (afterTurn s).sfx = s.sfx := rfl
@[simp] theorem afterTurn_dhex : (afterTurn s).dhex = s.dhex := rfl
@[simp] theorem afterTurn_work : (afterTurn s).work = s.work := rfl
@[simp] theorem afterTurn_out : (afterTurn s).out = s.out := rfl
@[simp] theorem afterTurn_block : (afterTurn s).block = s.block := rfl
@[simp] theorem afterTurn_h : (afterTurn s).h = s.h := rfl
@[simp] theorem afterTurn_v : (afterTurn s).v = s.v := rfl
@[simp] theorem afterTurn_w : (afterTurn s).w = s.w := rfl
@[simp] theorem afterTurn_din : (afterTurn s).din = s.din := rfl
@[simp] theorem afterTurn_prior : (afterTurn s).prior = s.prior := rfl
@[simp] theorem afterTurn_pbc : (afterTurn s).pbc = s.pbc := rfl
@[simp] theorem afterTurn_nblk : (afterTurn s).nblk = s.nblk := rfl
@[simp] theorem afterTurn_blkidx : (afterTurn s).blkidx = s.blkidx := rfl
@[simp] theorem afterTurn_glueOff : (afterTurn s).glueOff = s.glueOff := rfl
@[simp] theorem afterTurn_glueLen : (afterTurn s).glueLen = s.glueLen := rfl
@[simp] theorem afterTurn_outAddr : (afterTurn s).outAddr = s.outAddr := rfl
@[simp] theorem afterTurn_t : (afterTurn s).t = s.t := rfl
@[simp] theorem afterTurn_pending : (afterTurn s).pending = (nextTurn s.phase s.busy s.pending).2 := rfl
@[simp] theorem afterTurn_replies : (afterTurn s).replies = s.replies := rfl
@[simp] theorem afterTurn_fresh : (afterTurn s).fresh = s.fresh := rfl

end

end Sys2Proof.Machine
end

