-- ==== Sys2Proof/Laws/Buffers.lean ====
section
/-! SUPPORT. The buffers: what `append` and `prepend` answer, and that every operation keeps each buffer within
`BUF_CAP`. -/

namespace Sys2Proof.Machine

theorem bufCap_ge : 64 ≤ Config.bufCap := Nat.le_max_left _ _

theorem bufCap_lt : Config.bufCap < 2 ^ 61 := by
  have := Config.bufCapChoice.isLt
  unfold Config.bufCap
  omega

/-- The two tests of `fitsBuffer` are one. -/
theorem fitsBuffer_iff (n : Nat) : fitsBuffer n = true ↔ n ≤ Config.bufCap := by
  have := bufCap_ge
  simp only [fitsBuffer, Bool.or_eq_true, decide_eq_true_eq]
  omega

theorem append_eq (b x : Buffer) :
    append b x = if b.length + x.length ≤ Config.bufCap then some (b ++ x) else none := by
  simp only [append, fitsBuffer_iff]

theorem prepend_eq (b x : Buffer) :
    prepend b x = if b.length + x.length ≤ Config.bufCap then some (x ++ b) else none := by
  simp only [prepend, fitsBuffer_iff]

/-- Everything `append` can do. -/
theorem append_cases (b x : Buffer) :
    (append b x = some (b ++ x) ∧ b.length + x.length ≤ Config.bufCap) ∨
      (append b x = none ∧ Config.bufCap < b.length + x.length) := by
  rw [append_eq]
  split <;> simp_all

/-- Everything `prepend` can do. -/
theorem prepend_cases (b x : Buffer) :
    (prepend b x = some (x ++ b) ∧ b.length + x.length ≤ Config.bufCap) ∨
      (prepend b x = none ∧ Config.bufCap < b.length + x.length) := by
  rw [prepend_eq]
  split <;> simp_all

theorem append_fits {b x c : Buffer} (h : append b x = some c) : c.length ≤ Config.bufCap := by
  rw [append_eq] at h
  split at h
  · cases h; simpa using ‹_›
  · cases h

theorem prepend_fits {b x c : Buffer} (h : prepend b x = some c) : c.length ≤ Config.bufCap := by
  rw [prepend_eq] at h
  split at h
  · cases h; simp; omega
  · cases h

@[simp] theorem inputOf_setInput (p : InputBuffer) (b : Buffer) (s : State) : inputOf p (setInput p b s) = b := by
  cases p <;> rfl

theorem inputOf_setInput_ne {p q : InputBuffer} (h : p ≠ q) (b : Buffer) (s : State) :
    inputOf p (setInput q b s) = inputOf p s := by
  cases p <;> cases q <;> first | rfl | exact absurd rfl h

theorem reset_memory_wf : Memory.wf State.reset := by
  simp [Memory.wf, State.reset]

theorem clearInputs_memory_wf {s : State} (h : Memory.wf s) : Memory.wf (clearInputs s) := by
  simp_all [Memory.wf]

theorem clearAttackResults_memory_wf {s : State} (h : Memory.wf s) : Memory.wf (clearAttackResults s) := by
  simp_all [Memory.wf]

theorem enterNonFatal_memory_wf {e : ErrorCode} {s : State} (h : Memory.wf s) : Memory.wf (enterNonFatal e s) := by
  simp_all [Memory.wf]

theorem enterFatal_memory_wf {e : ErrorCode} {s : State} (h : Memory.wf s) : Memory.wf (enterFatal e s) := by
  simp_all [Memory.wf]

theorem raiseError_memory_wf {e : ErrorCode} {s : State} (h : Memory.wf s) : Memory.wf (raiseError e s) := by
  unfold raiseError
  split
  · exact enterFatal_memory_wf h
  · exact enterNonFatal_memory_wf h

theorem applyReset_memory_wf (s : State) : Memory.wf (applyReset s) := by
  simp [Memory.wf]

theorem issueCommand_memory_wf {word : BitVec 32} {s : State} (h : Memory.wf s) : Memory.wf (issueCommand word s) := by
  simp_all [Memory.wf]

theorem setInput_memory_wf {p : InputBuffer} {b : Buffer} {s : State} (h : Memory.wf s)
    (hb : b.length ≤ Config.bufCap) : Memory.wf (setInput p b s) := by
  cases p <;> simp_all [Memory.wf, setInput]

theorem writePort_memory_wf {p : InputBuffer} {value : BitVec 64} {s : State} (h : Memory.wf s) :
    Memory.wf (writePort p value s) := by
  unfold writePort
  split
  · simpa [Memory.wf] using h
  · split
    · exact h
    · split
      · exact setInput_memory_wf h (append_fits ‹_›)
      · exact raiseError_memory_wf h

/-- The address and byte pairs of a buffer are its bytes at the addresses `0 .. len-1`, rising. -/
theorem bufferCells_addresses (b : Buffer) : (bufferCells b).map Prod.fst = List.range b.length := by
  simp [bufferCells, List.map_map, Function.comp_def, List.range_eq_range']

theorem bufferCells_bytes (b : Buffer) : (bufferCells b).map Prod.snd = b := by
  simp [bufferCells, List.map_map, Function.comp_def]

end Sys2Proof.Machine
end

