-- ==== Sys2Proof/Laws/Turn.lean ====
section
/-! SUPPORT. What a step does, case by case: whose turn it is and what is decoded. -/

namespace Sys2Proof.Machine

/-- The instruction of a phase. -/
def phaseInstr : Phase → Instr
  | .idle => .idle
  | .decode => .decode
  | .parse => .parse
  | .glue => .glue
  | .load => .load
  | .pad => .pad
  | .fetch => .fetch
  | .sched => .sched
  | .round => .round
  | .fold => .fold
  | .finish => .finish
  | .fault => .fault

theorem decode_phaseCode (p : Phase) : decode (.phase (phaseCode p)) = .instr (phaseInstr p) := by
  cases p <;> decide

theorem phaseOfCode_phaseCode (p : Phase) : phaseOfCode (phaseCode p) = some p := by
  cases p <;> decide

theorem runEncoded_phase (p : Phase) (s : State) : runEncoded (.phase (phaseCode p)) s = exec (phaseInstr p) s := by
  simp only [runEncoded, decode_phaseCode]

/-- Everything the turn can be: the sequencer's phase, a hard reset, a read, or a write that is not held; and what is left
of the host's list. -/
theorem nextTurn_cases (p : Phase) (busy : Bool) (pending : List HostAction) :
    (nextTurn p busy pending).1 = .run (.phase (phaseCode p)) ∨ (nextTurn p busy pending).1 = .hardReset ∨
      (∃ reg, (nextTurn p busy pending).1 = .read reg) ∨
      (∃ reg value, busy = false ∧ (nextTurn p busy pending).1 = .run (.write reg value)) := by
  unfold nextTurn
  split
  · exact .inl rfl
  · split
    · split <;> simp
    · rename_i hheld
      split
      · refine .inr (.inr (.inr ⟨_, _, ?_, rfl⟩))
        simpa [isHeld] using hheld
      · exact .inr (.inr (.inl ⟨_, rfl⟩))
      · exact .inr (.inl rfl)
      · exact .inl rfl

/-- Everything a step can do. -/
theorem step_cases (s : State) :
    step s = exec (phaseInstr s.phase) (afterTurn s) ∨ step s = .next (applyReset (afterTurn s)) ∨
      (∃ reg, step s = .next (completeRead reg (afterTurn s))) ∨
      (∃ reg value, s.busy = false ∧ step s = runEncoded (.write reg value) (afterTurn s)) := by
  unfold step turnOf
  obtain h | h | ⟨reg, h⟩ | ⟨reg, value, hb, h⟩ := nextTurn_cases s.phase s.busy s.pending
  · exact .inl (by rw [h]; exact runEncoded_phase _ _)
  · exact .inr (.inl (by rw [h]; rfl))
  · exact .inr (.inr (.inl ⟨reg, by rw [h]; rfl⟩))
  · exact .inr (.inr (.inr ⟨reg, value, hb, by rw [h]; rfl⟩))

theorem nextTurn_of_hostWaits (p : Phase) {pending : List HostAction} (h : hostWaits pending = true) :
    nextTurn p true pending = (.run (.phase (phaseCode p)), pending) := by
  unfold hostWaits at h
  split at h
  · rfl
  · simp only [Bool.and_eq_true] at h
    obtain ⟨h1, h2⟩ := h
    unfold nextTurn
    simp only [h1, if_true]
    split at h2 <;> simp_all

/-- While a command runs and the host leaves the sequencer alone, a step is the phase's operation. -/
theorem step_of_hostWaits {s : State} (hb : s.busy = true) (h : hostWaits s.pending = true) :
    step s = exec (phaseInstr s.phase) s := by
  have ht := nextTurn_of_hostWaits s.phase h
  have hn : nextTurn s.phase s.busy s.pending = (.run (.phase (phaseCode s.phase)), s.pending) := by rw [hb, ht]
  have ha : afterTurn s = s := by unfold afterTurn; rw [hn]
  unfold step turnOf
  rw [ha, hn]
  exact runEncoded_phase _ _

theorem step_of_nil {s : State} (h : s.pending = []) : step s = exec (phaseInstr s.phase) s := by
  have ha : afterTurn s = s := by
    have : (nextTurn s.phase s.busy s.pending).2 = s.pending := by rw [h]; rfl
    simp only [afterTurn, this]
  simp only [step, ha, turnOf, h]
  exact runEncoded_phase _ _

theorem step_of_pause {s : State} {rest : List HostAction} (h : s.pending = .pause :: rest) :
    step s = exec (phaseInstr s.phase) { s with pending := rest } := by
  have ha : afterTurn s = { s with pending := rest } := by simp only [afterTurn, h]; rfl
  simp only [step, ha, turnOf, h]
  exact runEncoded_phase _ _

theorem step_of_write {s : State} {reg : BitVec 8} {value : BitVec 64} {rest : List HostAction} (hb : s.busy = false)
    (h : s.pending = .write reg value :: rest) :
    step s = runEncoded (.write reg value) { s with pending := rest } := by
  have ha : afterTurn s = { s with pending := rest } := by simp only [afterTurn, h, hb]; rfl
  simp only [step, ha, turnOf, h, hb]
  rfl

theorem step_of_read {s : State} {reg : BitVec 8} {rest : List HostAction}
    (hb : s.busy = false ∨ reg = regStatus) (h : s.pending = .read reg :: rest) :
    step s = .next (completeRead reg { s with pending := rest }) := by
  have hn : nextTurn s.phase s.busy s.pending = (.read reg, rest) := by
    rw [h]
    obtain hb | hb := hb
    · rw [hb]; rfl
    · subst hb; cases s.busy <;> rfl
  have ha : afterTurn s = { s with pending := rest } := by simp only [afterTurn, hn]
  simp only [step, ha, turnOf, hn, runTurn]

theorem step_of_hardReset {s : State} {rest : List HostAction} (h : s.pending = .hardReset :: rest) :
    step s = .next (applyReset { s with pending := rest }) := by
  have ha : afterTurn s = { s with pending := rest } := by simp only [afterTurn, h]; rfl
  simp only [step, ha, turnOf, h]
  rfl

theorem step_of_held_hardReset {s : State} {a : HostAction} {rest : List HostAction} (ha : isHeld s.busy a = true)
    (h : s.pending = a :: .hardReset :: rest) : step s = .next (applyReset { s with pending := a :: rest }) := by
  have hn : nextTurn s.phase s.busy s.pending = (.hardReset, a :: rest) := by
    rw [h]; simp only [nextTurn, ha, if_true]
  simp only [step, afterTurn, turnOf, hn, runTurn]

/-- Everything a step can do with `BUSY = 0`: the host's next action completes. -/
theorem step_notBusy_cases {s : State} (hb : s.busy = false) :
    (s.pending = [] ∧ step s = exec (phaseInstr s.phase) s) ∨
    (∃ rest, s.pending = .pause :: rest ∧ step s = exec (phaseInstr s.phase) { s with pending := rest }) ∨
    (∃ rest, s.pending = .hardReset :: rest ∧ step s = .next (applyReset { s with pending := rest })) ∨
    (∃ reg rest, s.pending = .read reg :: rest ∧ step s = .next (completeRead reg { s with pending := rest })) ∨
    (∃ reg value rest, s.pending = .write reg value :: rest ∧
      step s = runEncoded (.write reg value) { s with pending := rest }) := by
  cases hp : s.pending with
  | nil => exact .inl ⟨rfl, step_of_nil hp⟩
  | cons a rest =>
    cases a with
    | pause => exact .inr (.inl ⟨rest, rfl, step_of_pause hp⟩)
    | hardReset => exact .inr (.inr (.inl ⟨rest, rfl, step_of_hardReset hp⟩))
    | read reg => exact .inr (.inr (.inr (.inl ⟨reg, rest, rfl, step_of_read (.inl hb) hp⟩)))
    | write reg value => exact .inr (.inr (.inr (.inr ⟨reg, value, rest, rfl, step_of_write hb hp⟩)))

end Sys2Proof.Machine
end

