-- ==== Sys2Proof/Laws/Encoding.lean ====
section
/-! SUPPORT. Encodings: when a write fits its register, and what a phase code can be. -/

namespace Sys2Proof.Machine

theorem fits_write_iff (reg : BitVec 8) (value : BitVec 64) :
    (Encoded.write reg value).fits = true ↔ value.toNat < 2 ^ writeWidth reg :=
  decide_eq_true_iff

/-- A phase code is that of a phase, or it is unused. -/
theorem decodePhase_cases (code : BitVec 4) :
    (∃ p, code = phaseCode p ∧ decodePhase code = .instr (phaseInstr p)) ∨
      decodePhase code = .reject (.unusedPhase code) := by
  by_cases h : ∃ p, code = phaseCode p
  · obtain ⟨p, rfl⟩ := h
    exact .inl ⟨p, rfl, decode_phaseCode p⟩
  · have hn : ∀ p, code ≠ phaseCode p := fun p hp => h ⟨p, hp⟩
    exact .inr <| (if_neg (hn .idle)).trans <| (if_neg (hn .decode)).trans <| (if_neg (hn .parse)).trans <|
      (if_neg (hn .glue)).trans <| (if_neg (hn .load)).trans <| (if_neg (hn .pad)).trans <|
      (if_neg (hn .fetch)).trans <| (if_neg (hn .sched)).trans <| (if_neg (hn .round)).trans <|
      (if_neg (hn .fold)).trans <| (if_neg (hn .finish)).trans <| if_neg (hn .fault)

end Sys2Proof.Machine
end

