-- ==== Sys2Proof/Laws/Hash.lean ====
section
/-! SUPPORT. The hash over the parts of a message that are whole blocks (43 R140, R144). -/

namespace Sys2Proof.Machine

theorem messageBlock_append_left {p q : Buffer} {i : Nat} (h : 64 * i + 64 ≤ p.length) :
    messageBlock (p ++ q) i = messageBlock p i := by
  apply Vector.ext
  intro k hk
  simp only [messageBlock, Vector.getElem_ofFn, List.getD]
  rw [List.getElem?_append_left (by omega)]

theorem messageBlock_append_right {p q : Buffer} {n i : Nat} (h : p.length = 64 * n) :
    messageBlock (p ++ q) (n + i) = messageBlock q i := by
  apply Vector.ext
  intro k hk
  simp only [messageBlock, Vector.getElem_ofFn, List.getD]
  rw [List.getElem?_append_right (by omega)]
  congr 2
  omega

theorem hashBlocks_append_left {p q : Buffer} {cv : Vector Word 8} {n : Nat} (h : 64 * n ≤ p.length) :
    hashBlocks (p ++ q) cv n = hashBlocks p cv n := by
  induction n with
  | zero => rfl
  | succ n ih => rw [hashBlocks, hashBlocks, ih (by omega), messageBlock_append_left (by omega)]

/-- Blocks after a whole number of blocks go on from the chaining value reached there. -/
theorem hashBlocks_append {p q : Buffer} {cv : Vector Word 8} {n m : Nat} (h : p.length = 64 * n) :
    hashBlocks (p ++ q) cv (n + m) = hashBlocks q (hashBlocks p cv n) m := by
  induction m with
  | zero => exact hashBlocks_append_left (by omega)
  | succ m ih => rw [← Nat.add_assoc, hashBlocks, hashBlocks, ih, messageBlock_append_right h]

end Sys2Proof.Machine
end

