-- ==== Sys2Proof/Laws/PerInstr.lean ====
section
/-! SUPPORT. Statements for all instructions, one lemma per constructor. -/

namespace Sys2Proof.Laws.EncodingFits

/-- A well-formed instruction's value fits the register it is written to (30 R71, R73, R84). -/
def Statement (i : Instr) : Prop := i.wellFormed = true → (encode i).fits = true

theorem checksum : Statement .checksum := fun _ => by decide

theorem genmac : Statement .genmac := fun _ => by decide

theorem valmac : Statement .valmac := fun _ => by decide

theorem attack : Statement .attack := fun _ => by decide

theorem srst : Statement .srst := fun _ => by decide

theorem idle : Statement .idle := fun _ => by decide

theorem decode : Statement .decode := fun _ => by decide

theorem parse : Statement .parse := fun _ => by decide

theorem glue : Statement .glue := fun _ => by decide

theorem load : Statement .load := fun _ => by decide

theorem pad : Statement .pad := fun _ => by decide

theorem fetch : Statement .fetch := fun _ => by decide

theorem sched : Statement .sched := fun _ => by decide

theorem round : Statement .round := fun _ => by decide

theorem fold : Statement .fold := fun _ => by decide

theorem finish : Statement .finish := fun _ => by decide

theorem fault : Statement .fault := fun _ => by decide

theorem wrKeyPort (value : BitVec 64) : Statement (.wrKeyPort value) := fun h =>
  (Machine.fits_write_iff _ _).2 (of_decide_eq_true h)

theorem wrMsgPort (value : BitVec 64) : Statement (.wrMsgPort value) := fun h =>
  (Machine.fits_write_iff _ _).2 (of_decide_eq_true h)

theorem wrSfxPort (value : BitVec 64) : Statement (.wrSfxPort value) := fun h =>
  (Machine.fits_write_iff _ _).2 (of_decide_eq_true h)

theorem wrDhexPort (value : BitVec 64) : Statement (.wrDhexPort value) := fun h =>
  (Machine.fits_write_iff _ _).2 (of_decide_eq_true h)

theorem wrKeylen (value : BitVec 64) : Statement (.wrKeylen value) := fun _ => (Machine.fits_write_iff _ _).2 value.isLt

theorem wrOutAddr (value : BitVec 64) : Statement (.wrOutAddr value) := fun _ => (Machine.fits_write_iff _ _).2 value.isLt

end Sys2Proof.Laws.EncodingFits
end

