-- ==== Sys2Proof/Laws/Phases.lean ====
section
/-! SUPPORT. Everything each phase's meaning, an error entry and a host write can do, as one case list per operation. -/

namespace Sys2Proof.Machine

/-- Everything taking an error can do. -/
theorem raiseError_cases (e : ErrorCode) (s : State) :
    (isFatal e = true ∧ raiseError e s = enterFatal e s) ∨ (isFatal e = false ∧ raiseError e s = enterNonFatal e s) := by
  cases h : isFatal e <;> simp [raiseError, h]

theorem execDecode_cases (s : State) :
    (s.cmdreg = wordChecksum ∧ execDecode s = .next { s with mode := .checksum, phase := .load }) ∨
    (s.cmdreg = wordGenmac ∧ execDecode s = .next { s with mode := .genmac, phase := .load }) ∨
    (s.cmdreg = wordValmac ∧ execDecode s = .next { s with mode := .valmac, phase := .parse }) ∨
    (s.cmdreg = wordAttack ∧ execDecode s = .next { s with mode := .attack, phase := .parse }) ∨
    (s.cmdreg ≠ wordChecksum ∧ s.cmdreg ≠ wordGenmac ∧ s.cmdreg ≠ wordValmac ∧ s.cmdreg ≠ wordAttack ∧
      execDecode s = .next (enterNonFatal .usageError s)) := by
  unfold execDecode
  by_cases h1 : s.cmdreg = wordChecksum
  · exact .inl ⟨h1, if_pos h1⟩
  by_cases h2 : s.cmdreg = wordGenmac
  · exact .inr (.inl ⟨h2, by rw [if_neg h1, if_pos h2]⟩)
  by_cases h3 : s.cmdreg = wordValmac
  · exact .inr (.inr (.inl ⟨h3, by rw [if_neg h1, if_neg h2, if_pos h3]⟩))
  by_cases h4 : s.cmdreg = wordAttack
  · exact .inr (.inr (.inr (.inl ⟨h4, by rw [if_neg h1, if_neg h2, if_neg h3, if_pos h4]⟩)))
  · exact .inr (.inr (.inr (.inr ⟨h1, h2, h3, h4, by rw [if_neg h1, if_neg h2, if_neg h3, if_neg h4]; rfl⟩)))

theorem execParse_cases (s : State) :
    (∃ d, parseDigest s.dhex = some d ∧ s.mode = .attack ∧ s.keylen ≠ 0#64 ∧
      execParse s = .next { s with din := d, phase := .glue }) ∨
    (∃ d, parseDigest s.dhex = some d ∧ s.mode ≠ .attack ∧ execParse s = .next { s with din := d, phase := .load }) ∨
    ((parseDigest s.dhex = none ∨ (s.mode = .attack ∧ s.keylen = 0#64)) ∧
      execParse s = .next (enterNonFatal .usageError s)) := by
  unfold execParse
  cases hd : parseDigest s.dhex with
  | none => exact .inr (.inr ⟨.inl rfl, rfl⟩)
  | some d =>
    dsimp only
    by_cases hm : s.mode = .attack
    · by_cases hk : s.keylen = 0#64
      · exact .inr (.inr ⟨.inr ⟨hm, hk⟩, by rw [if_pos hm, if_pos hk]; rfl⟩)
      · exact .inl ⟨d, rfl, hm, hk, by rw [if_pos hm, if_neg hk]⟩
    · exact .inr (.inl ⟨d, rfl, hm, by rw [if_neg hm]⟩)

/-- The three checked appends of GLUE are one check of the whole length. -/
theorem glueAppends_eq (x g y : Buffer) :
    (((append [] x).bind fun b => append b g).bind fun b => append b y) =
      if x.length + g.length + y.length ≤ Config.bufCap then some (x ++ g ++ y) else none := by
  rw [append_eq]
  by_cases h1 : ([] : Buffer).length + x.length ≤ Config.bufCap
  · rw [if_pos h1, Option.bind_some, append_eq]
    by_cases h2 : ([] ++ x : Buffer).length + g.length ≤ Config.bufCap
    · rw [if_pos h2, Option.bind_some, append_eq]
      simp only [List.nil_append, List.length_append]
    · rw [if_neg h2, Option.bind_none, if_neg]
      simp at h2
      omega
  · rw [if_neg h1, Option.bind_none, Option.bind_none, if_neg]
    simp at h1
    omega

theorem execGlue_cases (s : State) :
    (lengthLimit ≤ priorTotalLength s ∧ execGlue s = .next (enterNonFatal .lengthOverflow s)) ∨
    (priorTotalLength s < lengthLimit ∧
      Config.bufCap < s.msg.length + (glueBytes (priorTotalLength s)).length + s.sfx.length ∧
      execGlue s = .next (enterFatal .allocationFailure s)) ∨
    (priorTotalLength s < lengthLimit ∧
      s.msg.length + (glueBytes (priorTotalLength s)).length + s.sfx.length ≤ Config.bufCap ∧
      execGlue s = .next { s with
        pbc := priorBlockCount (priorTotalLength s), out := s.msg ++ glueBytes (priorTotalLength s) ++ s.sfx,
        glueOff := s.msg.length, glueLen := (glueBytes (priorTotalLength s)).length, phase := .load }) := by
  simp only [execGlue, glueAppends_eq]
  by_cases h1 : lengthLimit ≤ priorTotalLength s
  · exact .inl ⟨h1, by rw [if_pos h1]; rfl⟩
  by_cases h2 : s.msg.length + (glueBytes (priorTotalLength s)).length + s.sfx.length ≤ Config.bufCap
  · exact .inr (.inr ⟨by omega, h2, by rw [if_neg h1, if_pos h2]⟩)
  · exact .inr (.inl ⟨by omega, by omega, by rw [if_neg h1, if_neg h2]; rfl⟩)

theorem execLoad_cases (s : State) :
    (s.mode = .checksum ∧
      execLoad s = .next { s with work := s.msg, prior := 0, h := initialValue, phase := .pad }) ∨
    ((s.mode = .genmac ∨ s.mode = .valmac) ∧ s.msg.length + s.key.length ≤ Config.bufCap ∧
      execLoad s = .next { s with work := s.key ++ s.msg, prior := 0, h := initialValue, phase := .pad }) ∨
    ((s.mode = .genmac ∨ s.mode = .valmac) ∧ Config.bufCap < s.msg.length + s.key.length ∧
      execLoad s = .next (enterFatal .allocationFailure { s with work := s.msg })) ∨
    (s.mode = .attack ∧
      execLoad s = .next { s with work := s.sfx, prior := 64 * s.pbc, h := s.din, phase := .pad }) ∨
    (s.mode = .none ∧ execLoad s = .fault .loadWithoutMode) := by
  unfold execLoad
  cases hm : s.mode with
  | none => exact .inr (.inr (.inr (.inr ⟨rfl, rfl⟩)))
  | checksum => exact .inl ⟨rfl, rfl⟩
  | attack => exact .inr (.inr (.inr (.inl ⟨rfl, rfl⟩)))
  | genmac =>
    obtain ⟨hp, hl⟩ | ⟨hp, hl⟩ := prepend_cases s.msg s.key
    · exact .inr (.inl ⟨.inl rfl, hl, by simp only [hp]⟩)
    · exact .inr (.inr (.inl ⟨.inl rfl, hl, by simp only [hp]; rfl⟩))
  | valmac =>
    obtain ⟨hp, hl⟩ | ⟨hp, hl⟩ := prepend_cases s.msg s.key
    · exact .inr (.inl ⟨.inr rfl, hl, by simp only [hp]⟩)
    · exact .inr (.inr (.inl ⟨.inr rfl, hl, by simp only [hp]; rfl⟩))

theorem be64Bytes_length (n : Nat) : (be64Bytes n).length = 8 := by
  unfold be64Bytes
  split
  · rfl
  · exact Vector.length_toList

theorem padBytes_length (base total : Nat) : (padBytes base total).length = 9 + zeroCount (base % 64) := by
  simp only [padBytes, List.length_cons, List.length_append, List.length_replicate, be64Bytes_length]
  omega

theorem zeroCount_mod (base : Nat) (h : base < 64) : (base + 9 + zeroCount base) % 64 = 0 ∧ zeroCount base ≤ 63 := by
  unfold zeroCount
  split <;> omega

theorem length_add_padBytes_mod (base total : Nat) : (base + (padBytes base total).length) % 64 = 0 := by
  have := (zeroCount_mod (base % 64) (Nat.mod_lt _ (by decide))).1
  rw [padBytes_length]
  omega

theorem padded_length (message : Buffer) (prior : Nat) :
    (padded message prior).length = message.length + 9 + zeroCount (message.length % 64) := by
  simp only [padded, List.length_append, padBytes_length]
  omega

/-- PAD has three ways out: the invariant check it makes never fails. -/
theorem execPad_cases (s : State) :
    (lengthLimit ≤ s.work.length + s.prior ∧ execPad s = .next (enterNonFatal .lengthOverflow s)) ∨
    (s.work.length + s.prior < lengthLimit ∧ Config.bufCap < (padded s.work s.prior).length ∧
      execPad s = .next (enterFatal .allocationFailure s)) ∨
    (s.work.length + s.prior < lengthLimit ∧ (padded s.work s.prior).length ≤ Config.bufCap ∧
      execPad s = .next { s with
        work := padded s.work s.prior, nblk := (padded s.work s.prior).length / 64, blkidx := 0, phase := .fetch }) := by
  have hm := length_add_padBytes_mod s.work.length (s.work.length + s.prior)
  have hl : (padded s.work s.prior).length = s.work.length + (padBytes s.work.length (s.work.length + s.prior)).length := by
    simp only [padded, List.length_append]
  simp only [execPad]
  by_cases h1 : lengthLimit ≤ s.work.length + s.prior
  · exact .inl ⟨h1, by rw [if_pos h1]; rfl⟩
  rw [if_neg h1]
  obtain ⟨hp, hf⟩ | ⟨hp, hf⟩ := append_cases s.work (padBytes s.work.length (s.work.length + s.prior))
  · refine .inr (.inr ⟨by omega, by omega, ?_⟩)
    simp only [hp]
    rw [if_neg (by rw [List.length_append]; omega)]
    rfl
  · exact .inr (.inl ⟨by omega, by omega, by simp only [hp]; rfl⟩)

/-- `readBlock` reads whole blocks that exist. -/
theorem readBlock_eq (b : Buffer) (i : Nat) :
    readBlock b (64 * i) = if 64 * i + 64 ≤ b.length then some (messageBlock b i) else none := rfl

theorem execFetch_cases (s : State) :
    (s.blkidx = s.nblk ∧ execFetch s = .next { s with phase := .finish }) ∨
    (s.blkidx ≠ s.nblk ∧ 64 * s.blkidx + 64 ≤ s.work.length ∧
      execFetch s = .next { s with block := messageBlock s.work s.blkidx, phase := .sched }) ∨
    (s.blkidx ≠ s.nblk ∧ s.work.length < 64 * s.blkidx + 64 ∧ execFetch s = .fault .readBeyondWork) := by
  unfold execFetch
  by_cases h1 : s.blkidx = s.nblk
  · exact .inl ⟨h1, if_pos h1⟩
  rw [if_neg h1, readBlock_eq]
  by_cases h2 : 64 * s.blkidx + 64 ≤ s.work.length
  · exact .inr (.inl ⟨h1, h2, by rw [if_pos h2]⟩)
  · exact .inr (.inr ⟨h1, by omega, by rw [if_neg h2]⟩)

theorem execRound_cases (s : State) :
    (∃ h : s.t.val < 64, execRound s = .next { s with
      v := roundStep s.v s.w[s.t.val] (roundConstant s.t.val)
      t := ⟨s.t.val + 1, by omega⟩
      phase := if s.t.val + 1 = 64 then .fold else .round }) ∨
    (s.t.val = 64 ∧ execRound s = .fault .roundIndexOutOfRange) := by
  unfold execRound
  by_cases h : s.t.val < 64
  · exact .inl ⟨h, dif_pos h⟩
  · exact .inr ⟨by omega, dif_neg h⟩

/-- Everything a write of a command word can do. -/
theorem writeCommand_cases (word : BitVec 32) (s : State) :
    (s.busy = true ∧ writeCommand word s = holdWrite regCmd (word.setWidth 64) s) ∨
    (s.busy = false ∧ word = wordSrst ∧ writeCommand word s = applyReset s) ∨
    (s.busy = false ∧ word ≠ wordSrst ∧ s.phase = .fault ∧ writeCommand word s = s) ∨
    (s.busy = false ∧ word ≠ wordSrst ∧ s.phase ≠ .fault ∧ writeCommand word s = issueCommand word s) := by
  unfold writeCommand
  cases hb : s.busy with
  | true => exact .inl ⟨rfl, if_pos rfl⟩
  | false =>
    rw [if_neg (by decide)]
    by_cases h1 : word = wordSrst
    · exact .inr (.inl ⟨rfl, h1, if_pos h1⟩)
    rw [if_neg h1]
    by_cases h2 : s.phase = .fault
    · exact .inr (.inr (.inl ⟨rfl, h1, h2, if_pos h2⟩))
    · exact .inr (.inr (.inr ⟨rfl, h1, h2, if_neg h2⟩))

/-- Everything a write to a byte port can do. -/
theorem writePort_cases (p : InputBuffer) (value : BitVec 64) (s : State) :
    (s.busy = true ∧ writePort p value s = holdWrite (portOf p) value s) ∨
    (s.busy = false ∧ s.phase = .fault ∧ writePort p value s = s) ∨
    (s.busy = false ∧ s.phase ≠ .fault ∧ (inputOf p s).length < Config.bufCap ∧
      writePort p value s = setInput p (inputOf p s ++ [value.setWidth 8]) s) ∨
    (s.busy = false ∧ s.phase ≠ .fault ∧ Config.bufCap ≤ (inputOf p s).length ∧
      writePort p value s = enterFatal .allocationFailure s) := by
  unfold writePort
  cases hb : s.busy with
  | true => exact .inl ⟨rfl, if_pos rfl⟩
  | false =>
    rw [if_neg (by decide)]
    by_cases h1 : s.phase = .fault
    · exact .inr (.inl ⟨rfl, h1, if_pos h1⟩)
    rw [if_neg h1]
    obtain ⟨hp, hf⟩ | ⟨hp, hf⟩ := append_cases (inputOf p s) [value.setWidth 8]
    · exact .inr (.inr (.inl ⟨rfl, h1, by simpa using hf, by simp only [hp]⟩))
    · exact .inr (.inr (.inr ⟨rfl, h1, by simp at hf; omega, by simp only [hp]; rfl⟩))

end Sys2Proof.Machine
end

