-- ==== Sys2Proof/Laws/Writes.lean ====
section
/-! SUPPORT. Everything a host write that is not held can do. -/

namespace Sys2Proof.Machine

/-- Each command word, legal or not, is run as the write of that word. -/
theorem runEncoded_cmd (value : BitVec 64) (s : State) :
    runEncoded (.write regCmd value) s = .next (writeCommand (value.setWidth 32) s) := by
  simp only [runEncoded, decode, decodeWrite, if_true, decodeCommand]
  by_cases h1 : value.setWidth 32 = wordChecksum
  · simp only [h1, if_true]; rfl
  by_cases h2 : value.setWidth 32 = wordGenmac
  · simp only [h2, if_true, if_neg (show ¬wordGenmac = wordChecksum by decide)]; rfl
  by_cases h3 : value.setWidth 32 = wordValmac
  · simp only [h3, if_true, if_neg (show ¬wordValmac = wordChecksum by decide),
      if_neg (show ¬wordValmac = wordGenmac by decide)]; rfl
  by_cases h4 : value.setWidth 32 = wordAttack
  · simp only [h4, if_true, if_neg (show ¬wordAttack = wordChecksum by decide),
      if_neg (show ¬wordAttack = wordGenmac by decide), if_neg (show ¬wordAttack = wordValmac by decide)]; rfl
  by_cases h5 : value.setWidth 32 = wordSrst
  · simp only [h5, if_true, if_neg (show ¬wordSrst = wordChecksum by decide),
      if_neg (show ¬wordSrst = wordGenmac by decide), if_neg (show ¬wordSrst = wordValmac by decide),
      if_neg (show ¬wordSrst = wordAttack by decide)]; rfl
  · rw [if_neg h1, if_neg h2, if_neg h3, if_neg h4, if_neg h5]; rfl

/-- Everything a write can do where it is not held. -/
theorem runEncoded_write_cases (reg : BitVec 8) (value : BitVec 64) (s : State) (hb : s.busy = false) :
    runEncoded (.write reg value) s = .next s ∨
    (reg = regCmd ∧ value.setWidth 32 = wordSrst ∧ runEncoded (.write reg value) s = .next (applyReset s)) ∨
    (reg = regCmd ∧ value.setWidth 32 ≠ wordSrst ∧ s.phase ≠ .fault ∧
      runEncoded (.write reg value) s = .next (issueCommand (value.setWidth 32) s)) ∨
    (∃ p, reg = portOf p ∧ s.phase ≠ .fault ∧ (inputOf p s).length < Config.bufCap ∧
      runEncoded (.write reg value) s = .next (setInput p (inputOf p s ++ [value.setWidth 8]) s)) ∨
    (∃ p, reg = portOf p ∧ s.phase ≠ .fault ∧ Config.bufCap ≤ (inputOf p s).length ∧
      runEncoded (.write reg value) s = .next (enterFatal .allocationFailure s)) ∨
    (reg = regKeylen ∧ s.phase ≠ .fault ∧ runEncoded (.write reg value) s = .next { s with keylen := value }) ∨
    (reg = regOutAddr ∧ s.phase ≠ .fault ∧ runEncoded (.write reg value) s = .next { s with outAddr := value }) := by
  have hport : ∀ p, runEncoded (.write reg value) s = .next (writePort p value s) → reg = portOf p →
      runEncoded (.write reg value) s = .next s ∨
      (∃ p, reg = portOf p ∧ s.phase ≠ .fault ∧ (inputOf p s).length < Config.bufCap ∧
        runEncoded (.write reg value) s = .next (setInput p (inputOf p s ++ [value.setWidth 8]) s)) ∨
      (∃ p, reg = portOf p ∧ s.phase ≠ .fault ∧ Config.bufCap ≤ (inputOf p s).length ∧
        runEncoded (.write reg value) s = .next (enterFatal .allocationFailure s)) := by
    intro p h hr
    obtain ⟨h1, _⟩ | ⟨_, _, h2⟩ | ⟨_, hp, hl, h2⟩ | ⟨_, hp, hl, h2⟩ := writePort_cases p value s
    · rw [hb] at h1; cases h1
    · exact .inl (by rw [h, h2])
    · exact .inr (.inl ⟨p, hr, hp, hl, by rw [h, h2]⟩)
    · exact .inr (.inr ⟨p, hr, hp, hl, by rw [h, h2]⟩)
  by_cases h0 : reg = regCmd
  · subst h0
    rw [runEncoded_cmd]
    obtain ⟨h1, _⟩ | ⟨_, hw, h2⟩ | ⟨_, _, _, h2⟩ | ⟨_, hw, hp, h2⟩ := writeCommand_cases (value.setWidth 32) s
    · rw [hb] at h1; cases h1
    · exact .inr (.inl ⟨rfl, hw, by rw [h2]⟩)
    · exact .inl (by rw [h2])
    · exact .inr (.inr (.inl ⟨rfl, hw, hp, by rw [h2]⟩))
  by_cases h1 : reg = regKeylen
  · subst h1
    have h : runEncoded (.write regKeylen value) s = execWrKeylen value s := rfl
    rw [h, execWrKeylen, hb, if_neg (by decide)]
    by_cases hp : s.phase = .fault
    · exact .inl (if_pos hp)
    · exact .inr (.inr (.inr (.inr (.inr (.inl ⟨rfl, hp, if_neg hp⟩)))))
  by_cases h2 : reg = regKeyPort
  · subst h2
    obtain h | h | h := hport .key rfl rfl
    · exact .inl h
    · exact .inr (.inr (.inr (.inl h)))
    · exact .inr (.inr (.inr (.inr (.inl h))))
  by_cases h3 : reg = regMsgPort
  · subst h3
    obtain h | h | h := hport .msg rfl rfl
    · exact .inl h
    · exact .inr (.inr (.inr (.inl h)))
    · exact .inr (.inr (.inr (.inr (.inl h))))
  by_cases h4 : reg = regSfxPort
  · subst h4
    obtain h | h | h := hport .sfx rfl rfl
    · exact .inl h
    · exact .inr (.inr (.inr (.inl h)))
    · exact .inr (.inr (.inr (.inr (.inl h))))
  by_cases h5 : reg = regDhexPort
  · subst h5
    obtain h | h | h := hport .dhex rfl rfl
    · exact .inl h
    · exact .inr (.inr (.inr (.inl h)))
    · exact .inr (.inr (.inr (.inr (.inl h))))
  by_cases h6 : reg = regOutAddr
  · subst h6
    have h : runEncoded (.write regOutAddr value) s = execWrOutAddr value s := rfl
    rw [h, execWrOutAddr, hb, if_neg (by decide)]
    by_cases hp : s.phase = .fault
    · exact .inl (if_pos hp)
    · exact .inr (.inr (.inr (.inr (.inr (.inr ⟨rfl, hp, if_neg hp⟩)))))
  · refine .inl ?_
    simp only [runEncoded, decode, decodeWrite, if_neg h0, if_neg h1, if_neg h2, if_neg h3, if_neg h4, if_neg h5,
      if_neg h6]
    cases isReserved reg <;> simp [runRejected, writeIgnored, hb]

end Sys2Proof.Machine
end

