-- ==== Sys2Proof/Laws/Run.lean ====
section
/-! SUPPORT. Runs of several steps, taken apart. -/

namespace Sys2Proof.Machine

theorem run_succ (n : Nat) (s : State) :
    run (n + 1) s = match step s with
      | .next t => run n t
      | .fault r => .fault r
      | .refused r => .refused r := rfl

/-- A run goes on from where a shorter one ended. -/
theorem run_add {n : Nat} {s t : State} (h : run n s = .next t) (m : Nat) : run (n + m) s = run m t := by
  induction n generalizing s with
  | zero => cases h; rw [Nat.zero_add]
  | succ n ih =>
    rw [Nat.add_right_comm]
    rw [run_succ] at h ⊢
    split at h
    · exact ih h
    · cases h
    · cases h

/-- Two runs one after the other. -/
theorem run_trans {n m : Nat} {s t u : State} (h : run n s = .next t) (h' : run m t = .next u) :
    run (n + m) s = .next u := by
  rw [run_add h, h']

theorem run_one {s t : State} (h : step s = .next t) : run 1 s = .next t := by
  rw [run_succ, h]
  rfl

/-- One phase of a running command that the host leaves alone. -/
theorem run_phase {s t : State} (hb : s.busy = true) (hw : hostWaits s.pending = true)
    (h : exec (phaseInstr s.phase) s = .next t) : run 1 s = .next t :=
  run_one (by rw [step_of_hostWaits hb hw, h])

end Sys2Proof.Machine
end

