-- ==== Sys2Proof/Machine/Script.lean ====
section
/-! DEFINITION. The host-script notation of 30 R86 and R87 as lists of host actions, the scripts of R88, and when a test
passes (70 R253). Host level: a script is loaded into `pending`; step never reads this file. -/

namespace Sys2Proof.Machine

/-- A line of a host script (30 R86). `cmd` names a legal word, `cmdw` any. `wait` gives its polls of `STATUS`, each by the
number of steps the host lets pass before it: those that read `BUSY = 1`, as many as there are (93 U19; log 7), and the
last one, which reads `BUSY = 0`. -/
inductive ScriptLine where
  | put (buffer : InputBuffer) (bytes : List Byte)
  | setKeylen (n : BitVec 64)
  | cmd (mode : Mode)
  | srst
  | cmdw (word : BitVec 32)
  | wait (busyPolls : List Nat) (lastPoll : Nat)
  | read (reg : BitVec 8)
  | expect (reg : BitVec 8) (value : BitVec 64)
  | expectDigest (text : List Byte)
  | expectOut (bytes : List Byte)
  | reset
deriving DecidableEq, Repr

/-- The legal word of a mode (30 R73); `0` selects none (30 R74). -/
def modeWord : Mode → BitVec 32
  | .none => 0x00000000#32
  | .checksum => wordChecksum
  | .genmac => wordGenmac
  | .valmac => wordValmac
  | .attack => wordAttack

/-- What a line says of a value it reads: nothing, the value of `BUSY` (a poll of `WAIT`), or the whole value (`EXPECT`). -/
inductive Expected where
  | anything
  | busyBit (busy : Bool)
  | exactly (value : BitVec 64)
deriving DecidableEq, Repr

/-- The value read is as the line says; `BUSY` is bit 0 of `STATUS` (30 R75, R86). -/
def Expected.holds (want : Expected) (value : BitVec 64) : Bool :=
  match want with
  | .anything => true
  | .busyBit busy => value.getLsbD 0 == busy
  | .exactly v => value == v

/-- The reads a line makes, in order, with what it says of each value (30 R86, R87): "repeat `HostRead(STATUS)` until bit
`BUSY` is 0" is polls that read 1 and one last poll that reads 0. -/
def lineReads : ScriptLine → List (BitVec 8 × Expected)
  | .put _ _ => []
  | .setKeylen _ => []
  | .cmd _ => []
  | .srst => []
  | .cmdw _ => []
  | .wait busyPolls _ => (busyPolls.map fun _ => (regStatus, .busyBit true)) ++ [(regStatus, .busyBit false)]
  | .read reg => [(reg, .anything)]
  | .expect reg value => [(reg, .exactly value)]
  | .expectDigest text => text.zipIdx.map fun c => (regDigestHex + BitVec.ofNat 8 c.2, .exactly (c.1.setWidth 64))
  | .expectOut bytes =>
    (regOutLength, .exactly (BitVec.ofNat 64 bytes.length)) :: bytes.map fun b => (regOutData, .exactly (b.setWidth 64))
  | .reset => []

/-- The host actions of a line (30 R86, R87). -/
def expandLine : ScriptLine → List HostAction
  | .put buffer bytes => bytes.map fun b => .write (portOf buffer) (b.setWidth 64)
  | .setKeylen n => [.write regKeylen n]
  | .cmd mode => [.write regCmd ((modeWord mode).setWidth 64)]
  | .srst => [.write regCmd (wordSrst.setWidth 64)]
  | .cmdw word => [.write regCmd (word.setWidth 64)]
  | .wait busyPolls lastPoll =>
    (busyPolls ++ [lastPoll]).flatMap fun n => List.replicate n .pause ++ [.read regStatus]
  | .read reg => [.read reg]
  | .expect reg _ => [.read reg]
  | .expectDigest text => (lineReads (.expectDigest text)).map fun r => .read r.1
  | .expectOut bytes =>
    .read regOutLength ::
      (List.range bytes.length).flatMap fun i => [.write regOutAddr (BitVec.ofNat 64 i), .read regOutData]
  | .reset => [.hardReset]

/-- The host actions of a script. -/
def expandScript (script : List ScriptLine) : List HostAction := script.flatMap expandLine

/-- A reply is to the read the line makes, with a value as it says. -/
def replyMatches (want : BitVec 8 × Expected) (got : Reply) : Bool := want.1 == got.reg && want.2.holds got.value

/-- "the run ends when its last line has executed, and the test passes when every `EXPECT` holds" (70 R253): `replies`,
newest first, are those of the script's reads, every `WAIT` has ended with `BUSY = 0`, and every stated value was read. -/
def scriptPasses (script : List ScriptLine) (replies : List Reply) : Bool :=
  let wanted := script.flatMap lineReads
  wanted.length == replies.length && (wanted.zip replies.reverse).all fun p => replyMatches p.1 p.2

/-- Mode `checksum` (30 R88), up to the reading of its result. -/
def cliChecksum (message : List Byte) (busyPolls : List Nat) (lastPoll : Nat) : List ScriptLine :=
  [.put .msg message, .cmd .checksum, .wait busyPolls lastPoll]

/-- Mode `generate-mac` (30 R88). -/
def cliGenerateMac (key message : List Byte) (busyPolls : List Nat) (lastPoll : Nat) : List ScriptLine :=
  [.put .key key, .put .msg message, .cmd .genmac, .wait busyPolls lastPoll]

/-- Mode `validate-mac` (30 R88). -/
def cliValidateMac (key message claimed : List Byte) (busyPolls : List Nat) (lastPoll : Nat) : List ScriptLine :=
  [.put .key key, .put .msg message, .put .dhex claimed, .cmd .valmac, .wait busyPolls lastPoll]

/-- Mode `attack` (30 R88). -/
def cliAttack (message claimed suffix : List Byte) (keylen : BitVec 64) (busyPolls : List Nat) (lastPoll : Nat) : List ScriptLine :=
  [.put .msg message, .put .dhex claimed, .setKeylen keylen, .put .sfx suffix, .cmd .attack, .wait busyPolls lastPoll]

end Sys2Proof.Machine
end

