-- ==== Sys2Proof/Tests/Slice0.lean ====
section
/-! SUPPORT. Tests on small states, expected values from the spec (95_test_vectors unless a comment says otherwise), and a
witness for the hypotheses of each statement of Certificates/Slice0/Obligations.lean. -/

namespace Sys2Proof.Tests

open Sys2Proof.Machine

/-! ### Helpers -/

/-- What `f` sees in the next state. -/
def after {α : Type} (r : Result) (f : State → α) : Option α :=
  match r with
  | .next t => some (f t)
  | .fault _ => none
  | .refused _ => none

/-- The machine in phase `p` of a command of mode `m`. -/
def running (p : Phase) (m : Mode) : State := { State.reset with phase := p, mode := m, busy := true }

/-- The machine in `FAULT`. -/
def faulted : State := { State.reset with phase := .fault, fatal := true, err := .allocationFailure }

/-- A buffer of `BUF_CAP` bytes. -/
def full : Buffer := List.replicate Config.bufCap 0x61#8

theorem full_length : full.length = Config.bufCap := List.length_replicate

/-- `"abc"`. -/
def abc : Buffer := [0x61#8, 0x62#8, 0x63#8]

/-- `"data"`. -/
def data : Buffer := [0x64#8, 0x61#8, 0x74#8, 0x61#8]

/-- `"secret"`. -/
def secret : Buffer := [0x73#8, 0x65#8, 0x63#8, 0x72#8, 0x65#8, 0x74#8]

/-- The block of `"abc"` (V20). -/
def abcBlock : Vector Byte 64 :=
  ((#v[0x61#8, 0x62#8, 0x63#8, 0x80#8] ++ Vector.replicate 59 0x00#8) ++ #v[0x18#8]).cast (by decide)

/-- The text `0000..0001` (V50). -/
def textOfOne : Buffer := List.replicate 63 0x30#8 ++ [0x31#8]

/-! ### Well-formed instructions: a byte port takes 0 to 255 (30 R84) -/

theorem test_wellFormed_port_top : (Instr.wrKeyPort 255#64).wellFormed = true := by decide
theorem test_illFormed_keyPort : (Instr.wrKeyPort 256#64).wellFormed = false := by decide
theorem test_illFormed_msgPort : (Instr.wrMsgPort 256#64).wellFormed = false := by decide
theorem test_illFormed_sfxPort : (Instr.wrSfxPort 256#64).wellFormed = false := by decide
theorem test_illFormed_dhexPort : (Instr.wrDhexPort 0xFFFFFFFFFFFFFFFF#64).wellFormed = false := by decide
theorem test_wellFormed_keylen : (Instr.wrKeylen 0xFFFFFFFFFFFFFFFF#64).wellFormed = true := by decide

/-! ### Decoding, from words written out (30 R71, R73, R77) -/

theorem test_decode_checksum : decode (.write 0b00000000#8 0b00000000000000000000000000000001#64) = .instr .checksum := by
  decide
theorem test_decode_genmac : decode (.write 0b00000000#8 0b00000000000000000000000000000010#64) = .instr .genmac := by decide
theorem test_decode_valmac : decode (.write 0b00000000#8 0b00000000000000000000000000000100#64) = .instr .valmac := by decide
theorem test_decode_attack : decode (.write 0b00000000#8 0b00000000000000000000000000001000#64) = .instr .attack := by decide
theorem test_decode_srst : decode (.write 0b00000000#8 0b10000000000000000000000000000000#64) = .instr .srst := by decide
theorem test_decode_idle : decode (.phase 0b0000#4) = .instr .idle := by decide
theorem test_decode_decode : decode (.phase 0b0001#4) = .instr .decode := by decide
theorem test_decode_parse : decode (.phase 0b0010#4) = .instr .parse := by decide
theorem test_decode_glue : decode (.phase 0b0011#4) = .instr .glue := by decide
theorem test_decode_load : decode (.phase 0b0100#4) = .instr .load := by decide
theorem test_decode_pad : decode (.phase 0b0101#4) = .instr .pad := by decide
theorem test_decode_fetch : decode (.phase 0b0110#4) = .instr .fetch := by decide
theorem test_decode_sched : decode (.phase 0b0111#4) = .instr .sched := by decide
theorem test_decode_round : decode (.phase 0b1000#4) = .instr .round := by decide
theorem test_decode_fold : decode (.phase 0b1001#4) = .instr .fold := by decide
theorem test_decode_finish : decode (.phase 0b1010#4) = .instr .finish := by decide
theorem test_decode_fault : decode (.phase 0b1111#4) = .instr .fault := by decide
theorem test_decode_keylen : decode (.write 0b00000010#8 6#64) = .instr (.wrKeylen 6#64) := by decide
theorem test_decode_keyPort : decode (.write 0b00000011#8 0x73#64) = .instr (.wrKeyPort 0x73#64) := by decide
theorem test_decode_msgPort : decode (.write 0b00000100#8 0x61#64) = .instr (.wrMsgPort 0x61#64) := by decide
theorem test_decode_sfxPort : decode (.write 0b00000101#8 0x65#64) = .instr (.wrSfxPort 0x65#64) := by decide
theorem test_decode_dhexPort : decode (.write 0b00000110#8 0x63#64) = .instr (.wrDhexPort 0x63#64) := by decide
theorem test_decode_outAddr : decode (.write 0b00001100#8 61#64) = .instr (.wrOutAddr 61#64) := by decide
theorem test_decode_unused : decode (.phase 0b1110#4) = .reject (.unusedPhase 0b1110#4) := by decide
theorem test_decode_twoModes : decode (.write 0x00#8 3#64) = .reject (.illegalCommand 3#32) := by decide
theorem test_decode_readOnly : decode (.write 0x01#8 3#64) = .reject (.readOnlyRegister 0x01#8) := by decide
theorem test_decode_reserved : decode (.write 0x19#8 3#64) = .reject (.reservedRegister 0x19#8) := by decide
theorem test_table_fetch : decodeTableWord 4 6 = some .fetch := by decide
theorem test_table_sched : decodeTableWord 8 7 = some .sched := by decide
theorem test_table_msgPort : decodeTableWord 8 4 = some (.wrMsgPort 0#64) := by decide

/-! ### The step that runs a placed instruction, as the first one after reset -/

theorem test_fetchWord_checksum :
    after (step (State.reset.withFetchWord 32 1)) (fun t => (t.phase, t.cmdreg)) = some (.decode, 1#32) := by decide
theorem test_fetchWord_outAddr :
    after (step (State.reset.withFetchWord 8 0x0C)) (fun t => (t.phase, t.outAddr)) = some (.idle, 0#64) := by decide
theorem test_fetchWord_finish :
    after (step (State.reset.withFetchWord 4 0xA)) (fun t => (t.phase, t.done, t.dvalid)) = some (.idle, true, true) := by
  decide

/-! ### Word functions (V10, V11, V12) -/

theorem test_rotr : rotr 0x12345678#32 31 = 0x2468acf0#32 ∧ rotr 0x80000001#32 4 = 0x18000000#32 := by decide
theorem test_shr : shr 0x12345678#32 8 = 0x00123456#32 := by decide
theorem test_add32 : add32 0xffffffff#32 1#32 = 0#32 ∧ not32 0#32 = 0xffffffff#32 := by decide
theorem test_sigmas :
    smallSigma0 0x12345678#32 = 0xe7fce6ee#32 ∧ smallSigma1 0x12345678#32 = 0xa1f78649#32 ∧
    bigSigma0 0x12345678#32 = 0x66146474#32 ∧ bigSigma1 0x12345678#32 = 0x3561abda#32 := by decide
theorem test_ch_maj :
    ch 0xf0f0f0f0#32 0xffff0000#32 0x00ffff00#32 = 0xf0ff0f00#32 ∧
    maj 0xf0f0f0f0#32 0xffff0000#32 0x00ffff00#32 = 0xf0fff000#32 := by decide

/-! ### Host writes -/

/-- V70: issued, DECODE not yet done. -/
theorem test_checksum : after (exec .checksum { State.reset with done := true }) statusWord = some 0x00000001#32 := by decide
theorem test_genmac : after (exec .genmac State.reset) (fun t => t.cmdreg) = some 0x00000002#32 := by decide
/-- A write to `CMD` empties `OUT` (V73); `H` stays (46 R189). -/
theorem test_valmac :
    after (exec .valmac { State.reset with out := abc, pbc := 1, h := Vector.replicate 8 7#32 })
      (fun t => (t.out, t.pbc, t.h[0])) = some ([], 0, 7#32) := by decide
/-- In `FAULT` a command is ignored (46 R196). -/
theorem test_attack : after (exec .attack faulted) (fun t => (t.phase, t.cmdreg)) = some (.fault, 0#32) := by decide
/-- P5: `SRST` leaves `FAULT`. -/
theorem test_srst : after (exec .srst faulted) (fun t => (t.phase, statusWord t)) = some (.idle, 0x00000000#32) := by decide
/-- While `BUSY` a write is held (46 R188). -/
theorem test_srst_held :
    after (exec .srst (running .round .checksum)) (fun t => (t.phase, t.pending)) =
      some (.round, [.write 0x00#8 0x80000000#64]) := by decide
theorem test_keyPort : after (exec (.wrKeyPort 0x163#64) { State.reset with key := [0x61#8, 0x62#8] }) (fun t => t.key) =
    some abc := by decide
theorem test_msgPort : after (exec (.wrMsgPort 0x63#64) { State.reset with msg := [0x61#8, 0x62#8] }) (fun t => t.msg) =
    some abc := by decide
theorem test_sfxPort : after (exec (.wrSfxPort 0x63#64) { State.reset with sfx := [0x61#8, 0x62#8] }) (fun t => t.sfx) =
    some abc := by decide
/-- P5: in `FAULT` a port write is ignored. -/
theorem test_dhexPort : after (exec (.wrDhexPort 0x63#64) faulted) (fun t => (t.dhex, t.phase)) = some ([], .fault) := by
  decide
theorem test_keylen : after (exec (.wrKeylen 0x2000000000000000#64) State.reset) (fun t => t.keylen) =
    some 0x2000000000000000#64 := by decide
theorem test_outAddr : after (exec (.wrOutAddr 61#64) State.reset) (fun t => t.outAddr) = some 61#64 := by decide
/-- 30 R75, R76 and 10_state R34 by hand: `FATAL`, code 3, mask `0010`; and code 4, mask `1000`. -/
theorem test_status_codes :
    statusWord (raiseError .internalInvariantViolation { State.reset with mode := .genmac }) = 0x00000238#32 ∧
    statusWord (raiseError .lengthOverflow { State.reset with mode := .attack }) = 0x00000840#32 := by decide
/-- V70: a port write to a full buffer, after a `CHECKSUM`. -/
theorem test_port_full :
    after (.next (enterFatal .allocationFailure { State.reset with mode := .checksum })) statusWord =
      some 0x00000128#32 := by decide

/-! ### Phases -/

theorem test_idle : after (exec .idle State.reset) (fun t => t.phase) = some .idle := by decide
/-- V70: `ATTACK` running, after DECODE. -/
theorem test_decode : after (exec .decode { running .decode .none with cmdreg := 8#32 }) (fun t => (statusWord t, t.phase)) =
    some (0x00000801#32, .parse) := by decide
/-- V70: an illegal word. -/
theorem test_decode_illegal :
    after (exec .decode { running .decode .none with cmdreg := 0x80000001#32 }) (fun t => (statusWord t, t.phase)) =
      some (0x00000010#32, .idle) := by decide
/-- V50. -/
theorem test_parse :
    after (exec .parse { running .parse .valmac with dhex := textOfOne }) (fun t => (t.din[6], t.din[7], t.phase)) =
      some (0#32, 1#32, .load) := by decide +kernel
/-- V70: `ATTACK` with `KEYLEN = 0`. -/
theorem test_parse_keylen : after (exec .parse { running .parse .attack with dhex := textOfOne }) statusWord =
    some 0x00000810#32 := by decide +kernel
/-- V60, V61 row 1: `T = 10`. -/
theorem test_glue :
    after (exec .glue { running .glue .attack with msg := data, keylen := 6#64 })
      (fun t => (t.pbc, t.glueOff, t.glueLen, t.out.getLast?)) = some (1, 4, 54, some 0x50#8) := by decide +kernel
/-- V61 last row. -/
theorem test_glue_overflow : after (exec .glue { running .glue .attack with keylen := 0x2000000000000000#64 }) statusWord =
    some 0x00000840#32 := by decide +kernel
/-- P2: the key comes first. -/
theorem test_load : after (exec .load { running .load .genmac with key := secret, msg := data }) (fun t => (t.work, t.prior)) =
    some (secret ++ data, 0) := by decide
/-- P3: the hash resumes from `DIN` after 64 bytes. -/
theorem test_load_attack :
    after (exec .load { running .load .attack with sfx := abc, pbc := 1, din := Vector.replicate 8 5#32 })
      (fun t => (t.work, t.prior, t.h[0])) = some (abc, 64, 5#32) := by decide
/-- V31, row `L = 3`. -/
theorem test_pad :
    after (exec .pad { running .pad .checksum with work := abc })
      (fun t => (t.work.length, t.nblk, t.work.getD 3 0#8, t.work.getLast?)) = some (64, 1, 0x80#8, some 0x18#8) := by
  decide +kernel
/-- V31, row `PRIOR = 2^61`. -/
theorem test_pad_overflow :
    after (exec .pad { running .pad .attack with prior := 2 ^ 61 }) (fun t => (t.err, t.phase)) =
      some (.lengthOverflow, .idle) := by decide +kernel
/-- 43 R143. -/
theorem test_fetch :
    after (exec .fetch { running .fetch .checksum with
      work := List.replicate 64 0#8 ++ (abc ++ List.replicate 61 0#8), nblk := 2, blkidx := 1 }) (fun t => (t.block[2], t.phase)) = some (0x63#8, .sched) := by decide +kernel
theorem test_fetch_last : after (exec .fetch { running .fetch .checksum with nblk := 2, blkidx := 2 }) (fun t => t.phase) =
    some .finish := by decide
/-- V20. -/
theorem test_sched :
    after (exec .sched { running .sched .checksum with block := abcBlock })
      (fun t => [t.w[0], t.w[15], t.w[17], t.w[18], t.w[23]]) =
      some [0x61626380#32, 0x18#32, 0x000f0000#32, 0x7da86405#32, 0xe2e2c38e#32] := by decide +kernel
/-- V21, round 0. -/
theorem test_round :
    after (exec .round { running .round .checksum with v := initialValue, w := Vector.replicate 64 0x61626380#32 })
      (fun t => t.v.toList) =
      some [0x5d6aebcd#32, 0x6a09e667#32, 0xbb67ae85#32, 0x3c6ef372#32, 0xfa2a4622#32, 0x510e527f#32, 0x9b05688c#32,
        0x1f83d9ab#32] := by decide +kernel
/-- V21, round 63, in which `W[63] = 12b1edeb`. -/
theorem test_round_last :
    after (exec .round { running .round .checksum with
      v := #v[0xd39a2165#32, 0x04d24d6c#32, 0xb85e2ce9#32, 0xb6ae8fff#32, 0xfb121210#32, 0x948d25b6#32, 0x961f4894#32,
        0xb21bad3d#32]
      w := Vector.replicate 64 0x12b1edeb#32
      t := 63 })
      (fun t => (t.v[0], t.v[4], t.phase)) = some (0x506e3058#32, 0x5ef50f24#32, .fold) := by decide +kernel
/-- V21, the fold: two of the sums wrap. -/
theorem test_fold :
    after (exec .fold { running .fold .checksum with
      h := initialValue
      v := #v[0x506e3058#32, 0xd39a2165#32, 0x04d24d6c#32, 0xb85e2ce9#32, 0x5ef50f24#32, 0xfb121210#32, 0x948d25b6#32,
        0x961f4894#32] }) (fun t => t.h.toList) =
      some [0xba7816bf#32, 0x8f01cfea#32, 0x414140de#32, 0x5dae2223#32, 0xb00361a3#32, 0x96177a9c#32, 0xb410ff61#32,
        0xf20015ad#32] := by decide +kernel
/-- V70: `VALMAC` done, match. -/
theorem test_finish : after (exec .finish { running .finish .valmac with dhex := textOfOne }) (fun t => (statusWord t, t.dhex)) =
    some (0x00001406#32, []) := by decide +kernel
/-- V70: `ATTACK` done. -/
theorem test_finish_attack : after (exec .finish (running .finish .attack)) statusWord = some 0x00003802#32 := by decide
theorem test_fault : after (exec .fault faulted) (fun t => (t.phase, t.fatal)) = some (.fault, true) := by decide

/-! ### What the host reads -/

/-- P3: `OUT_DATA` past the end of `OUT` reads 0 (46 R195). -/
theorem test_outData :
    hostRead 0x0D#8 { State.reset with out := abc, outAddr := 2#64 } = 0x63#64 ∧
    hostRead 0x0D#8 { State.reset with out := abc, outAddr := 3#64 } = 0#64 := by decide
/-- P1: the digest's first characters are `"ba"`, and `H7` is register `0x17`. -/
theorem test_digestHex :
    hostRead 0x40#8 { State.reset with h := Vector.replicate 8 0xba7816bf#32 } = 0x62#64 ∧
    hostRead 0x41#8 { State.reset with h := Vector.replicate 8 0xba7816bf#32 } = 0x61#64 ∧
    hostRead 0x17#8 { State.reset with h := Vector.replicate 8 0xba7816bf#32 } = 0xba7816bf#64 := by decide +kernel
/-- 44 R157's example: `0x0000000a` renders as `"0000000a"`. -/
theorem test_renderDigest :
    (renderDigest (Vector.replicate 8 0x0000000a#32)).take 8 = List.replicate 7 0x30#8 ++ [0x61#8] := by decide +kernel
/-- 30 R86: `WAIT` ends with a poll that reads `BUSY = 0`, so a run whose last poll reads 1 is none of the script. -/
theorem test_wait_not_ended :
    scriptPasses [.cmd .checksum, .wait [] 0, .expect regStatus 1#64] [⟨regStatus, 1#64⟩, ⟨regStatus, 1#64⟩] = false := by
  decide
/-- V70: `STATUS` is `0x101` after DECODE of `CHECKSUM` and `0x1102` at its end. -/
theorem test_wait_ended :
    scriptPasses [.cmd .checksum, .wait [1] 9, .expect regStatus 0x1102#64]
      [⟨regStatus, 0x1102#64⟩, ⟨regStatus, 0x1102#64⟩, ⟨regStatus, 0x101#64⟩] = true := by decide
/-- V51: a mismatch is exit status 1 (46 R199). -/
theorem test_exit : hostExitStatus { State.reset with done := true, mode := .valmac } = some 1 := by decide
/-- V30: `prepend` puts its bytes first; `append` of one byte to a full buffer fails. -/
theorem test_prepend : prepend data secret = some (secret ++ data) := by decide
theorem test_append_full : append full [0x61#8] = none := by
  rw [append_eq, full_length, if_neg (by simp)]

/-! ### Witnesses: states and operands that meet the hypotheses of the statements, clause by clause -/

/-- The machine before the host's action `a`. -/
def facing (a : HostAction) (s : State) : State := { s with pending := [a] }

/-- The machine in a phase of the block loop, with one block in `WORK`. -/
def looping (p : Phase) : State := { running p .checksum with work := List.replicate 64 0#8, nblk := 1 }

theorem test_inv_running : (running .load .checksum).Inv := by
  constructor <;> first | exact reset_memory_wf | simp [running, State.reset, phaseIsBusy, phaseIsHashing, phaseIsLoop, isFatal]

theorem test_inv_looping : (looping .round).Inv := by
  have h := bufCap_ge
  constructor <;>
    simp [looping, running, State.reset, phaseIsBusy, phaseIsHashing, phaseIsLoop, isFatal, Memory.wf, h]

theorem test_inv_faulted : faulted.Inv := by
  constructor <;>
    first | exact reset_memory_wf | simp [faulted, State.reset, phaseIsBusy, phaseIsHashing, phaseIsLoop, isFatal]

theorem test_inv_done : State.Inv { State.reset with done := true, dvalid := true, mode := .checksum } := by
  constructor <;> first | exact reset_memory_wf | simp [State.reset, phaseIsBusy, phaseIsHashing, phaseIsLoop, isFatal]

theorem test_witness_DecodeOfEncode :
    (Instr.wrDhexPort 255#64).wellFormed = true ∧ (Instr.wrKeylen 0xFFFFFFFFFFFFFFFF#64).wellFormed = true := by decide
theorem test_witness_EncodeOfDecoded :
    (Encoded.write 0x03#8 255#64).fits = true ∧ decode (.write 0x03#8 255#64) = .instr (.wrKeyPort 255#64) ∧
    (Encoded.write 0x00#8 0x80000000#64).fits = true ∧ decode (.write 0x00#8 0x80000000#64) = .instr .srst ∧
    (Encoded.phase 0xF#4).fits = true ∧ decode (.phase 0xF#4) = .instr .fault := by decide
theorem test_witness_IllegalCommandWord :
    0x80000001#32 ≠ 0x00000001#32 ∧ 0x80000001#32 ≠ 0x00000002#32 ∧ 0x80000001#32 ≠ 0x00000004#32 ∧
    0x80000001#32 ≠ 0x00000008#32 ∧ 0x80000001#32 ≠ 0x80000000#32 ∧
    (facing (.write 0x00#8 ((0x80000001#32).setWidth 64)) State.reset).busy = false ∧
    (facing (.write 0x00#8 ((0x80000001#32).setWidth 64)) State.reset).phase = .idle ∧
    (facing (.write 0x00#8 ((0x80000001#32).setWidth 64)) State.reset).pending =
      .write 0x00#8 ((0x80000001#32).setWidth 64) :: [] ∧
    State.cmdreg { running .decode .none with cmdreg := 0x80000001#32 } = 0x80000001#32 := by decide
theorem test_witness_EveryStepKeepsTheInvariant :
    (looping .round).Inv ∧ ∃ t, step (looping .round) = .next t := ⟨test_inv_looping, _, rfl⟩
theorem test_witness_NoStepStops : (running .load .checksum).Inv := test_inv_running
theorem test_witness_StatusWord : faulted.Inv ∧ (looping .round).Inv := ⟨test_inv_faulted, test_inv_looping⟩
theorem test_witness_SoftReset :
    (State.reset.busy = false ∧ State.reset.phase = .idle) ∧ faulted.busy = false ∧ faulted.phase = .fault := by decide
theorem test_witness_HardReset :
    (facing .hardReset (running .round .attack)).pending = .hardReset :: [] ∧
    isHeld (running .round .attack).busy (.read 0x10#8) = true ∧
    State.pending { running .round .attack with pending := [.read 0x10#8, .hardReset] } =
      .read 0x10#8 :: .hardReset :: [] := by decide
theorem test_witness_BusyHolds_write :
    (facing (.write 0x04#8 1#64) (running .fold .genmac)).busy = true ∧
    (facing (.write 0x04#8 1#64) (running .fold .genmac)).pending = .write 0x04#8 1#64 :: [] ∧
    (∃ reg value, HostAction.write 0x04#8 1#64 = .write reg value) ∧
    (∀ later, ([] : List HostAction) ≠ .hardReset :: later ∧ ([] : List HostAction) ≠ .pause :: later) ∧
    decode (.phase (phaseCode (running .fold .genmac).phase)) = .instr .fold :=
  ⟨rfl, rfl, ⟨_, _, rfl⟩, fun _ => ⟨by simp, by simp⟩, by decide⟩
theorem test_witness_BusyHolds_read :
    (facing (.read 0x00#8) (running .decode .none)).busy = true ∧
    (facing (.read 0x00#8) (running .decode .none)).pending = .read 0x00#8 :: [] ∧
    (∃ reg, HostAction.read 0x00#8 = .read reg ∧ reg ≠ 0x01#8) ∧
    decode (.phase (phaseCode (running .decode .none).phase)) = .instr .decode :=
  ⟨rfl, rfl, ⟨_, rfl, by decide⟩, by decide⟩
theorem test_witness_StatusRead : (facing (.read 0x01#8) (running .pad .valmac)).pending = .read 0x01#8 :: [] := by decide
theorem test_witness_Reads :
    (facing (.read 0x7F#8) State.reset).busy = false ∧
    (facing (.read 0x7F#8) State.reset).pending = .read 0x7F#8 :: [] := by decide
theorem test_witness_EveryRegister_ports :
    0x03 ≤ (0x03#8).toNat ∧ (0x03#8).toNat ≤ 0x06 ∧ 0x03 ≤ (0x06#8).toNat ∧ (0x06#8).toNat ≤ 0x06 := by decide
theorem test_witness_EveryRegister_outData :
    (State.outAddr { State.reset with out := abc, outAddr := 2#64 }).toNat < abc.length ∧
    abc.length ≤ (State.outAddr { State.reset with out := abc, outAddr := 3#64 }).toNat := by decide
theorem test_witness_EveryRegister_reserved :
    (0x19 ≤ (0x19#8).toNat ∧ (0x19#8).toNat ≤ 0x3F) ∧ (0x19 ≤ (0x3F#8).toNat ∧ (0x3F#8).toNat ≤ 0x3F) ∧
    0x80 ≤ (0x80#8).toNat ∧ 0x80 ≤ (0xFF#8).toNat := by decide
theorem test_witness_ReadOnlyAndReserved :
    (facing (.write 0x0D#8 7#64) State.reset).busy = false ∧
    (facing (.write 0x0D#8 7#64) State.reset).pending = .write 0x0D#8 7#64 :: [] ∧
    (0x07 ≤ (0x07#8).toNat ∧ (0x07#8).toNat ≠ 0x0C) ∧ (0x07 ≤ (0x0D#8).toNat ∧ (0x0D#8).toNat ≠ 0x0C) ∧
    0x07 ≤ (0xFF#8).toNat ∧ (0xFF#8).toNat ≠ 0x0C := by decide
theorem test_witness_FaultIgnores :
    (facing (.write 0x00#8 1#64) faulted).busy = false ∧ (facing (.write 0x00#8 1#64) faulted).phase = .fault ∧
    (facing (.write 0x00#8 1#64) faulted).pending = .write 0x00#8 1#64 :: [] ∧
    ¬(0x00#8 = 0x00#8 ∧ (1#64).setWidth 32 = 0x80000000#32) := by decide
theorem test_witness_StepRuns_write :
    (facing (.write 0x0C#8 5#64) State.reset).busy = false ∧
    (facing (.write 0x0C#8 5#64) State.reset).pending = .write 0x0C#8 5#64 :: [] ∧
    decode (.write 0x0C#8 5#64) = .instr (.wrOutAddr 5#64) := by decide
theorem test_witness_StepRuns_phase :
    decode (.phase (phaseCode (running .sched .attack).phase)) = .instr .sched ∧ (running .sched .attack).pending = [] ∧
    (facing .pause (running .sched .attack)).pending = .pause :: [] ∧ (running .sched .attack).busy = true ∧
    hostWaits (facing (.write 0x03#8 1#64) (running .sched .attack)).pending = true := by decide
theorem test_witness_WritesAreHeld :
    (running .idle .none).busy = true ∧ (Instr.wrSfxPort 255#64).wellFormed = true ∧
    encode (.wrSfxPort 255#64) = .write 0x05#8 255#64 ∧ Instr.srst.wellFormed = true ∧
    encode .srst = .write 0x00#8 0x80000000#64 := by decide
theorem test_witness_LegalCommands :
    State.reset.busy = false ∧ State.reset.phase = .idle ∧ (Instr.attack = .attack ∧ 0x00000008#32 = 0x00000008#32) := by
  decide
theorem test_witness_PortWriteAppends :
    State.reset.busy = false ∧ State.reset.phase = .idle ∧ State.reset.key.length < Config.bufCap ∧
    State.reset.msg.length < Config.bufCap ∧ State.reset.sfx.length < Config.bufCap ∧
    State.reset.dhex.length < Config.bufCap := by
  have h : (0 : Nat) < Config.bufCap := Nat.lt_of_lt_of_le (by decide) bufCap_ge
  exact ⟨rfl, rfl, h, h, h, h⟩
/-- The last byte that fits. -/
theorem test_witness_PortWriteAppends_last :
    List.length (State.msg { State.reset with msg := full.tail }) < Config.bufCap := by
  have := bufCap_ge
  show full.tail.length < _
  rw [List.length_tail, full_length]
  omega
theorem test_witness_PortWriteToFull :
    List.length (State.key { State.reset with key := full }) = Config.bufCap ∧
    List.length (State.msg { State.reset with msg := full }) = Config.bufCap ∧
    List.length (State.sfx { State.reset with sfx := full }) = Config.bufCap ∧
    List.length (State.dhex { State.reset with dhex := full }) = Config.bufCap :=
  ⟨full_length, full_length, full_length, full_length⟩
theorem test_witness_KeylenAndOutAddr :
    State.reset.busy = false ∧ State.reset.phase = .idle ∧ faulted.busy = false ∧ faulted.phase = .fault := by decide
theorem test_witness_DecodeSelects :
    State.cmdreg { State.reset with cmdreg := 1#32 } = 0x00000001#32 ∧
    State.cmdreg { State.reset with cmdreg := 2#32 } = 0x00000002#32 ∧
    State.cmdreg { State.reset with cmdreg := 4#32 } = 0x00000004#32 ∧
    State.cmdreg { State.reset with cmdreg := 8#32 } = 0x00000008#32 ∧
    State.reset.cmdreg ≠ 0x00000001#32 ∧ State.reset.cmdreg ≠ 0x00000002#32 ∧ State.reset.cmdreg ≠ 0x00000004#32 ∧
    State.reset.cmdreg ≠ 0x00000008#32 := by decide
theorem test_witness_ParseDigest : parseDigest textOfOne = some #v[0#32, 0#32, 0#32, 0#32, 0#32, 0#32, 0#32, 1#32] := by
  decide +kernel
/-- 30 R81 at the ends of its ranges: `"0"`, `"9"`, `"a"`, `"f"`, `"A"`, `"F"`. -/
theorem test_witness_ParseDigest_ranges :
    hexValue 0x30#8 = some 0 ∧ hexValue 0x39#8 = some 9 ∧ hexValue 0x61#8 = some 10 ∧ hexValue 0x66#8 = some 15 ∧
    hexValue 0x41#8 = some 10 ∧ hexValue 0x46#8 = some 15 := by decide
/-- The neighbours of these ranges: `"/"`, `":"`, `"@"`, `"G"`, `` "`" ``, `"g"`. -/
theorem test_witness_ParseDigest_outside :
    hexValue 0x2F#8 = none ∧ hexValue 0x3A#8 = none ∧ hexValue 0x40#8 = none ∧ hexValue 0x47#8 = none ∧
    hexValue 0x60#8 = none ∧ hexValue 0x67#8 = none := by decide
theorem test_witness_Parse_written :
    (parseDigest textOfOne).isSome = true ∧ (running .parse .attack).mode = .attack ∧ (1#64) ≠ 0#64 ∧
    (running .parse .valmac).mode ≠ .attack := by decide +kernel
theorem test_witness_Parse_error :
    parseDigest textOfOne.tail = none ∧ parseDigest (textOfOne ++ [0x30#8]) = none ∧
    (running .parse .attack).mode = .attack ∧ (running .parse .attack).keylen = 0#64 := by decide +kernel
/-- The largest `T` that passes, and the smallest that does not. -/
theorem test_witness_Glue_limit :
    (2 ^ 61 - 1 = (0x1FFFFFFFFFFFFFFF#64).toNat + State.reset.msg.length ∧ 2 ^ 61 - 1 < 2 ^ 61) ∧
    2 ^ 61 = (0x2000000000000000#64).toNat + State.reset.msg.length := by decide
theorem test_witness_Glue_room :
    1 = (1#64).toNat + State.reset.msg.length ∧
    State.reset.msg.length + (padBytes 1 1).length + State.reset.sfx.length ≤ Config.bufCap := by
  have h := bufCap_ge
  have e : (padBytes 1 1).length = 63 := rfl
  refine ⟨rfl, ?_⟩
  show 0 + (padBytes 1 1).length + 0 ≤ Config.bufCap
  omega
theorem test_witness_Glue_noRoom :
    Config.bufCap < State.reset.msg.length + (padBytes 1 1).length + (State.sfx { State.reset with sfx := full }).length := by
  have e : (padBytes 1 1).length = 63 := rfl
  show _ < 0 + (padBytes 1 1).length + full.length
  rw [full_length]
  omega
theorem test_witness_Load :
    (running .load .checksum).mode = .checksum ∧ (running .load .attack).mode = .attack ∧
    (running .load .genmac).mode = .genmac ∧ (running .load .valmac).mode = .valmac ∧
    (running .load .genmac).msg.length + (running .load .genmac).key.length ≤ Config.bufCap :=
  ⟨rfl, rfl, rfl, rfl, Nat.zero_le _⟩
theorem test_witness_Load_room :
    List.length (State.msg { running .load .genmac with msg := full }) + (running .load .genmac).key.length ≤
      Config.bufCap := Nat.le_of_eq full_length
theorem test_witness_Load_noRoom :
    Config.bufCap < List.length (State.msg { running .load .genmac with msg := full }) +
      List.length (State.key { running .load .genmac with key := [0x6b#8] }) := by
  show _ < full.length + 1
  rw [full_length]
  omega
theorem test_witness_Pad_written :
    (running .pad .checksum).work.length + (running .pad .checksum).prior < 2 ^ 61 ∧
    (running .pad .checksum).work.length + (padBytes 0 0).length ≤ Config.bufCap :=
  ⟨by decide, Nat.le_trans (by decide) bufCap_ge⟩
theorem test_witness_Pad_limit :
    (running .pad .checksum).work.length + (2 ^ 61 - 1) < 2 ^ 61 ∧
    2 ^ 61 ≤ (running .pad .checksum).work.length + State.prior { running .pad .attack with prior := 2 ^ 61 } := by decide
theorem test_witness_Pad_noRoom :
    List.length (State.work { running .pad .checksum with work := full }) + (running .pad .checksum).prior < 2 ^ 61 ∧
    Config.bufCap < List.length (State.work { running .pad .checksum with work := full }) +
      (padBytes full.length full.length).length := by
  have h := bufCap_lt
  have e := padBytes_length full.length full.length
  show full.length + 0 < _ ∧ _ < full.length + _
  rw [full_length] at e ⊢
  omega
theorem test_witness_PadInvariant :
    (running .pad .checksum).err ≠ .internalInvariantViolation ∧ ∃ t, exec .pad (running .pad .checksum) = .next t :=
  ⟨by decide, by
    obtain ⟨_, h⟩ | ⟨_, _, h⟩ | ⟨_, _, h⟩ := execPad_cases (running .pad .checksum)
    · exact ⟨_, h⟩
    · exact ⟨_, h⟩
    · exact ⟨_, h⟩⟩
theorem test_witness_Fetch :
    State.blkidx { looping .fetch with blkidx := 1 } = (looping .fetch).nblk ∧ (looping .fetch).blkidx ≠ (looping .fetch).nblk ∧
    64 * (looping .fetch).blkidx + 64 ≤ (looping .fetch).work.length := by decide
theorem test_witness_Round : (looping .round).t.val < 64 ∧ (State.t { looping .round with t := 63 }).val < 64 := by decide
theorem test_witness_Finish :
    (running .finish .valmac).mode = .valmac ∧ (running .finish .attack).mode = .attack ∧
    (running .finish .genmac).mode ≠ .valmac ∧ (running .finish .genmac).mode ≠ .attack := by decide
theorem test_witness_OnlyTermination :
    (looping .fold).busy = true ∧ decode (.phase (phaseCode (looping .fold).phase)) = .instr .fold ∧
    ∃ t, exec .fold (looping .fold) = .next t := ⟨rfl, by decide, _, rfl⟩
theorem test_witness_PhasesFollow :
    (looping .round).Inv ∧ (looping .round).busy = true ∧
    decode (.phase (phaseCode (looping .round).phase)) = .instr .round ∧ ∃ t, exec .round (looping .round) = .next t :=
  ⟨test_inv_looping, rfl, by decide, _, rfl⟩
theorem test_witness_CompressionReads :
    (∃ t, exec .sched (looping .sched) = .next t) ∧ (∃ t, exec .round (looping .round) = .next t) ∧
    ∃ t, exec .fold (looping .fold) = .next t := ⟨⟨_, rfl⟩, ⟨_, rfl⟩, _, rfl⟩
theorem test_witness_AttackNeverReadsTheKey :
    (running .load .attack).mode = .attack ∧ (∃ t, exec .load (running .load .attack) = .next t) ∧
    (∃ t, exec .parse (running .parse .attack) = .next t) ∧ (∃ t, exec .fetch (running .fetch .attack) = .next t) ∧
    (∃ t, exec .sched (running .sched .attack) = .next t) ∧ (∃ t, exec .round (running .round .attack) = .next t) ∧
    (∃ t, exec .fold (running .fold .attack) = .next t) ∧ ∃ t, exec .finish (running .finish .attack) = .next t :=
  ⟨rfl, ⟨_, rfl⟩, ⟨_, rfl⟩, ⟨_, rfl⟩, ⟨_, rfl⟩, ⟨_, rfl⟩, ⟨_, rfl⟩, _, rfl⟩
theorem test_witness_AttackNeverReadsTheKey_glue : ∃ t, exec .glue (running .glue .attack) = .next t := by
  obtain ⟨_, h⟩ | ⟨_, _, h⟩ | ⟨_, _, h⟩ := execGlue_cases (running .glue .attack)
  · exact ⟨_, h⟩
  · exact ⟨_, h⟩
  · exact ⟨_, h⟩
theorem test_witness_AttackNeverReadsTheKey_pad : ∃ t, exec .pad (running .pad .attack) = .next t := by
  obtain ⟨_, h⟩ | ⟨_, _, h⟩ | ⟨_, _, h⟩ := execPad_cases (running .pad .attack)
  · exact ⟨_, h⟩
  · exact ⟨_, h⟩
  · exact ⟨_, h⟩
theorem test_witness_Faults :
    (running .load .none).mode = .none ∧ State.blkidx { running .fetch .checksum with nblk := 1 } ≠ 1 ∧
    (running .fetch .checksum).work.length < 64 * (running .fetch .checksum).blkidx + 64 ∧
    (State.t { running .round .checksum with t := 64 }).val = 64 ∧ 0b1011 ≤ (0b1011#4).toNat ∧
    (0b1110#4).toNat ≤ 0b1110 := by decide
theorem test_witness_ErrorEntries :
    (ErrorCode.usageError = .usageError ∨ ErrorCode.usageError = .lengthOverflow) ∧
    (ErrorCode.internalInvariantViolation = .allocationFailure ∨
      ErrorCode.internalInvariantViolation = .internalInvariantViolation) := by decide
theorem test_witness_LogicalFunctions : 0 < 32 ∧ 31 < 32 := by decide
theorem test_witness_RotateAndShift : 0 < 1 ∧ 1 < 32 ∧ 0 < 31 ∧ 31 < 32 := by decide
theorem test_witness_ZeroCount : 0 < zeroCount (54 % 64) ∧ 62 < zeroCount (56 % 64) := by decide
theorem test_witness_Padding :
    8 * (2 ^ 61 - 1) < 2 ^ 64 ∧ 1 ≤ 63 ∧ 63 ≤ zeroCount (56 % 64) ∧ 1 ≤ zeroCount (54 % 64) := by decide
theorem test_witness_Glue_whole : 2 ^ 61 - 1 < 2 ^ 61 := by decide
theorem test_witness_ResultsLast :
    (facing (.write 0x04#8 1#64) State.reset).busy = false ∧ (facing (.write 0x04#8 1#64) State.reset).phase = .idle ∧
    (∀ rest, (facing (.write 0x04#8 1#64) State.reset).pending ≠ .hardReset :: rest) ∧
    (∀ value rest, (facing (.write 0x04#8 1#64) State.reset).pending ≠ .write 0x00#8 value :: rest) ∧
    ∃ t, step (facing (.write 0x04#8 1#64) State.reset) = .next t :=
  ⟨rfl, rfl, by simp [facing], by simp [facing], _, rfl⟩
/-- The overflowing port write: `IDLE`, a port at the head of the list, a full buffer. -/
theorem test_witness_ResultsLast_overflow :
    (facing (.write 0x06#8 1#64) { State.reset with dhex := full }).busy = false ∧
    (facing (.write 0x06#8 1#64) { State.reset with dhex := full }).phase = .idle ∧
    (facing (.write 0x06#8 1#64) { State.reset with dhex := full }).pending = .write 0x06#8 1#64 :: [] ∧
    Config.bufCap ≤ (facing (.write 0x06#8 1#64) { State.reset with dhex := full }).dhex.length ∧
    ∃ t, step (facing (.write 0x06#8 1#64) { State.reset with dhex := full }) = .next t :=
  ⟨rfl, rfl, rfl, Nat.le_of_eq full_length.symm, _, rfl⟩
theorem test_witness_OnlyResetLeavesFault :
    (facing (.write 0x00#8 0x80000000#64) faulted).busy = false ∧
    (facing (.write 0x00#8 0x80000000#64) faulted).phase = .fault ∧
    (∃ t, step (facing (.write 0x00#8 0x80000000#64) faulted) = .next t) ∧
    ∃ t, step (facing (.read 0x10#8) faulted) = .next t := ⟨rfl, rfl, ⟨_, rfl⟩, _, rfl⟩
theorem test_witness_PaddedLength : 64 % 64 = 0 ∧ List.length abc + 9 ≤ 64 := by decide
theorem test_witness_Compression :
    (looping .sched).busy = true ∧ (looping .sched).phase = .sched ∧ hostWaits (looping .sched).pending = true := by decide

/-- Room for one block: what the runs of the commands need on small inputs. -/
theorem one_block_fits {m : Buffer} {prior : Nat} (h : m.length ≤ 55) : (padded m prior).length ≤ Config.bufCap := by
  have := bufCap_ge
  rw [padded_length]
  unfold zeroCount
  split <;> omega

theorem test_witness_Checksum :
    (facing (.write 0x00#8 0x00000001#64) { State.reset with msg := abc }).busy = false ∧
    (facing (.write 0x00#8 0x00000001#64) { State.reset with msg := abc }).phase = .idle ∧
    (facing (.write 0x00#8 0x00000001#64) { State.reset with msg := abc }).pending = .write 0x00#8 0x00000001#64 :: [] ∧
    hostWaits [] = true ∧ (padded abc 0).length ≤ Config.bufCap := ⟨rfl, rfl, rfl, rfl, one_block_fits (by decide)⟩
theorem test_witness_Genmac :
    State.phase { State.reset with key := secret, msg := data, pending := [.write 0x00#8 2#64, .read 0x10#8] } = .idle ∧
    State.busy { State.reset with key := secret, msg := data, pending := [.write 0x00#8 2#64, .read 0x10#8] } = false ∧
    State.pending { State.reset with key := secret, msg := data, pending := [.write 0x00#8 2#64, .read 0x10#8] } =
      .write 0x00#8 0x00000002#64 :: [.read 0x10#8] ∧
    hostWaits [.read 0x10#8] = true ∧ (padded (secret ++ data) 0).length ≤ Config.bufCap :=
  ⟨rfl, rfl, rfl, rfl, one_block_fits (by decide)⟩
theorem test_witness_Valmac :
    (facing (.write 0x00#8 0x00000004#64) { State.reset with dhex := textOfOne }).busy = false ∧
    (facing (.write 0x00#8 0x00000004#64) { State.reset with dhex := textOfOne }).phase = .idle ∧ hostWaits [] = true ∧
    (facing (.write 0x00#8 0x00000004#64) { State.reset with dhex := textOfOne }).pending =
      .write 0x00#8 0x00000004#64 :: [] ∧
    (facing (.write 0x00#8 0x00000004#64) { State.reset with dhex := textOfOne }).dhex = textOfOne ∧
    parseDigest textOfOne = some #v[0#32, 0#32, 0#32, 0#32, 0#32, 0#32, 0#32, 1#32] ∧
    (padded ([] ++ [] : Buffer) 0).length ≤ Config.bufCap :=
  ⟨rfl, rfl, rfl, rfl, rfl, test_witness_ParseDigest, one_block_fits (by decide)⟩
theorem test_witness_ValmacAccepts :
    ∃ s : State, s.busy = false ∧ s.phase = .idle ∧ s.pending = .write 0x00#8 0x00000004#64 :: [] ∧
      hostWaits [] = true ∧ s.dhex = renderDigest (Sys2Proof.Machine.hash (s.key ++ s.msg) 0 initialValue) ∧
      s.key = secret ∧ s.msg = data ∧ (padded (s.key ++ s.msg) 0).length ≤ Config.bufCap :=
  ⟨{ State.reset with
      key := secret, msg := data, pending := [.write 0x00#8 4#64]
      dhex := renderDigest (Sys2Proof.Machine.hash (secret ++ data) 0 initialValue) },
    rfl, rfl, rfl, rfl, rfl, rfl, rfl, one_block_fits (by decide)⟩
theorem test_witness_Attack :
    ∃ s : State, s.busy = false ∧ s.phase = .idle ∧ s.pending = .write 0x00#8 0x00000008#64 :: [] ∧
      hostWaits [] = true ∧ s.dhex = textOfOne ∧ s.keylen = 1#64 ∧ s.msg = [] ∧ s.sfx = [] :=
  ⟨{ State.reset with dhex := textOfOne, keylen := 1#64, pending := [.write 0x00#8 8#64] },
    rfl, rfl, rfl, rfl, rfl, rfl, rfl, rfl⟩
theorem test_witness_Attack_values :
    parseDigest textOfOne = some #v[0#32, 0#32, 0#32, 0#32, 0#32, 0#32, 0#32, 1#32] ∧ (1#64) ≠ 0#64 ∧
    1 = (1#64).toNat + List.length ([] : Buffer) ∧ 1 < 2 ^ 61 ∧
    List.length ([] : Buffer) + (glueBytes 1).length + List.length ([] : Buffer) ≤ Config.bufCap ∧
    List.length ([] : Buffer) + 64 * priorBlockCount 1 < 2 ^ 61 ∧
    (padded [] (64 * priorBlockCount 1)).length ≤ Config.bufCap :=
  ⟨test_witness_ParseDigest, by decide, by decide, by decide, Nat.le_trans (by decide) bufCap_ge, by decide,
    one_block_fits (by decide)⟩
theorem test_witness_Ends :
    (looping .round).Inv ∧ (looping .round).busy = true ∧ hostWaits (looping .round).pending = true :=
  ⟨test_inv_looping, rfl, rfl⟩
theorem test_witness_LengthExtension : 10 = secret.length + data.length := by decide

end Sys2Proof.Tests
end

/-! ## Proofs of the scope family (00_scope): the invariant, `ROTR` and `SHR`, the model's own stops -/

namespace Sys2Proof.Machine

/-! ### What the invariant says in each kind of phase -/

/-- The flags of a running command: only `BUSY` is set (46 R189). -/
def Quiet (s : State) : Prop :=
  s.busy = true ∧ s.fatal = false ∧ s.err = .none ∧ s.done = false ∧ s.matched = false ∧ s.dvalid = false ∧
    s.ovalid = false

/-- `OUT` and the attack registers are as command issue leaves them (46 R189). -/
def NoAttackResults (s : State) : Prop := s.out = [] ∧ s.glueOff = 0 ∧ s.glueLen = 0 ∧ s.pbc = 0

/-- The count registers fit their 64 bits, as `State.Inv.counts` says (00_scope R11). -/
def CountsFit (s : State) : Prop :=
  s.prior < 2 ^ 64 ∧ 64 * s.pbc < 2 ^ 64 ∧ s.nblk < 2 ^ 64 ∧ s.blkidx < 2 ^ 64 ∧ s.glueOff < 2 ^ 64 ∧
    s.glueLen < 2 ^ 64

/-- The modes a phase can run in (43 R141; 44 R156; 45 R174; 46 R189). -/
def ModeFits : Phase → Mode → Prop
  | .idle, _ | .fault, _ => True
  | .decode, m => m = .none
  | .parse, m => m = .valmac ∨ m = .attack
  | .glue, m => m = .attack
  | .load, m | .pad, m | .fetch, m | .sched, m | .round, m | .fold, m | .finish, m => m ≠ .none

/-- What the block loop keeps: `WORK` is `NBLK` whole blocks, and `BLKIDX` and `T` are in range (43 R143, 42 R128). -/
def LoopFits (s : State) : Prop :=
  s.work.length = 64 * s.nblk ∧ s.blkidx ≤ s.nblk ∧ (s.phase ≠ .fetch → s.blkidx < s.nblk) ∧
    (s.phase = .round → s.t.val < 64)

theorem modeFits_hashing {p : Phase} {m : Mode} (hp : phaseIsHashing p = true) : ModeFits p m ↔ m ≠ .none := by
  revert hp
  cases p <;> simp [phaseIsHashing, ModeFits]

theorem ne_fault_of_phaseIsBusy {p : Phase} (h : phaseIsBusy p = true) : p ≠ .fault := by
  rintro rfl
  cases h

/-- While a command runs, the invariant leaves no flag but `BUSY` set. -/
theorem State.Inv.quiet {s : State} (h : s.Inv) (hp : phaseIsBusy s.phase = true) : Quiet s := by
  have hb : s.busy = true := h.busy_phase.trans hp
  have hd : s.done = false := by
    cases hd : s.done with
    | false => rfl
    | true => exact absurd hb (by simp [(h.done_clear hd).1])
  have hm : s.matched = false := by
    cases hm : s.matched with
    | false => rfl
    | true => exact absurd (h.matched_valmac hm).1 (by simp [hd])
  refine ⟨hb, ?_, h.busy_clear hb, hd, hm, h.dvalid_done.trans hd, ?_⟩
  · simpa [ne_fault_of_phaseIsBusy hp] using h.fatal_phase
  · simpa [hd] using h.ovalid_attack

theorem Quiet.not_fatal {s : State} (hq : Quiet s) : s.fatal = false :=
  have ⟨_, hf, _⟩ := hq
  hf

/-- While a command runs, the attack registers are empty or belong to an `ATTACK` past GLUE. -/
theorem State.Inv.running_results {s : State} (h : s.Inv) (hq : Quiet s) :
    (s.mode = .attack ∧ phaseIsHashing s.phase = true) ∨ NoAttackResults s := by
  obtain ⟨-, -, -, -, -, -, ho⟩ := hq
  exact h.attack_results.resolve_left (by simp [ho])

/-- Before LOAD nothing is in `OUT` and the attack registers while a command runs. -/
theorem State.Inv.noAttackResults_early {s : State} (h : s.Inv) (hq : Quiet s) (hp : phaseIsHashing s.phase = false) :
    NoAttackResults s :=
  (h.running_results hq).resolve_left fun ⟨_, hh⟩ => by rw [hp] at hh; cases hh

/-- From LOAD on the attack registers are empty unless the command is `ATTACK`. -/
theorem State.Inv.hashing_results {s : State} (h : s.Inv) (hq : Quiet s) : s.mode = .attack ∨ NoAttackResults s :=
  (h.running_results hq).imp_left And.left

theorem State.Inv.countsFit {s : State} (h : s.Inv) : CountsFit s := h.counts

/-- The block loop's part of the invariant. -/
theorem State.Inv.loopFits {s : State} (h : s.Inv) (hl : phaseIsLoop s.phase = true) : LoopFits s :=
  have ⟨hwork, hidx⟩ := h.loop_work hl
  ⟨hwork, hidx, h.loop_block hl, h.round_index⟩

/-! ### Sufficient conditions for the invariant -/

/-- A running command. -/
theorem Quiet.inv {t : State} (hq : Quiet t) (hp : phaseIsBusy t.phase = true) (hmode : ModeFits t.phase t.mode)
    (hmem : Memory.wf t) (hloop : phaseIsLoop t.phase = true → LoopFits t)
    (hres : (t.mode = .attack ∧ phaseIsHashing t.phase = true) ∨ NoAttackResults t) (hc : CountsFit t) : t.Inv := by
  obtain ⟨hb, hf, he, hd, hm, hdv, ho⟩ := hq
  exact {
    busy_phase := hb.trans hp.symm
    fatal_phase := by simp [hf, ne_fault_of_phaseIsBusy hp]
    fatal_code := by simp [hf, he, isFatal]
    done_clear := by simp [hd]
    busy_clear := fun _ => he
    dvalid_done := by rw [hdv, hd]
    ovalid_attack := by simp [ho, hd]
    matched_valmac := by simp [hm]
    mode_decode := fun h => by simpa [h, ModeFits] using hmode
    mode_parse := fun h => by simpa [h, ModeFits] using hmode
    mode_glue := fun h => by simpa [h, ModeFits] using hmode
    mode_hashing := fun h => (modeFits_hashing h).1 hmode
    memory := hmem
    loop_work := fun h => have ⟨hwork, hidx, _, _⟩ := hloop h; ⟨hwork, hidx⟩
    loop_block := fun h => have ⟨_, _, hblock, _⟩ := hloop h; hblock
    round_index := fun h => have ⟨_, _, _, hround⟩ := hloop (by rw [h]; rfl); hround h
    attack_results := .inr hres
    counts := hc }

/-- No command running and no result shown: `IDLE` with no fatal error, or `FAULT` with one. -/
theorem inv_without_results {t : State}
    (hp : (t.phase = .idle ∧ t.fatal = false ∧ isFatal t.err = false) ∨
      (t.phase = .fault ∧ t.fatal = true ∧ isFatal t.err = true))
    (hb : t.busy = false) (hd : t.done = false) (hm : t.matched = false) (hdv : t.dvalid = false)
    (ho : t.ovalid = false) (hmem : Memory.wf t) (hres : NoAttackResults t) (hc : CountsFit t) : t.Inv := by
  obtain ⟨hp, hf, he⟩ | ⟨hp, hf, he⟩ := hp <;> exact {
    busy_phase := by simp [hb, hp, phaseIsBusy]
    fatal_phase := by simp [hf, hp]
    fatal_code := by rw [hf, he]
    done_clear := by simp [hd]
    busy_clear := by simp [hb]
    dvalid_done := by rw [hdv, hd]
    ovalid_attack := by simp [ho, hd]
    matched_valmac := by simp [hm]
    mode_decode := by simp [hp]
    mode_parse := by simp [hp]
    mode_glue := by simp [hp]
    mode_hashing := by simp [hp, phaseIsHashing]
    memory := hmem
    loop_work := by simp [hp, phaseIsLoop]
    loop_block := by simp [hp, phaseIsLoop]
    round_index := by simp [hp]
    attack_results := .inr (.inr hres)
    counts := hc }

/-! ### The shared operations keep the invariant -/

/-- The host's list, the replies, `KEYLEN` and `OUT_ADDR` are in no field of the invariant. -/
theorem State.Inv.of_host_fields {s : State} (h : s.Inv) (pending : List HostAction) (replies : List Reply)
    (keylen outAddr : BitVec 64) :
    State.Inv { s with pending := pending, replies := replies, keylen := keylen, outAddr := outAddr } :=
  { h with }

theorem afterTurn_inv {s : State} (h : s.Inv) : (afterTurn s).Inv := h.of_host_fields _ _ _ _

theorem completeRead_inv {s : State} (reg : BitVec 8) (h : s.Inv) : (completeRead reg s).Inv :=
  h.of_host_fields _ _ _ _

theorem setInput_inv {p : InputBuffer} {b : Buffer} {s : State} (h : s.Inv) (hb : b.length ≤ Config.bufCap) :
    (setInput p b s).Inv := by
  have hmem := setInput_memory_wf (p := p) h.memory hb
  cases p <;> exact { h with memory := hmem }

theorem CountsFit.without_attack {s : State} (hc : CountsFit s) : CountsFit (clearAttackResults s) := by
  obtain ⟨hprior, -, hnblk, hidx, -, -⟩ := hc
  exact ⟨hprior, by simp, hnblk, hidx, by simp, by simp⟩

theorem applyReset_inv (s : State) : (applyReset s).Inv := by
  refine inv_without_results (.inl ⟨rfl, rfl, rfl⟩) rfl rfl rfl rfl rfl (applyReset_memory_wf s) ⟨rfl, rfl, rfl, rfl⟩ ?_
  exact ⟨BitVec.isLt _, by simp, BitVec.isLt _, BitVec.isLt _, by simp, by simp⟩

/-- A non-fatal error entry gives the invariant from any state in which no fatal error is shown. -/
theorem enterNonFatal_inv {e : ErrorCode} {s : State} (he : isFatal e = false) (hf : s.fatal = false)
    (hmem : Memory.wf s) (hc : CountsFit s) : (enterNonFatal e s).Inv :=
  inv_without_results (.inl ⟨rfl, hf, he⟩) rfl rfl rfl rfl rfl (enterNonFatal_memory_wf hmem) ⟨rfl, rfl, rfl, rfl⟩
    hc.without_attack

theorem enterFatal_inv {e : ErrorCode} {s : State} (he : isFatal e = true) (hmem : Memory.wf s) (hc : CountsFit s) :
    (enterFatal e s).Inv :=
  inv_without_results (.inr ⟨rfl, rfl, he⟩) rfl rfl rfl rfl rfl (enterFatal_memory_wf hmem) ⟨rfl, rfl, rfl, rfl⟩
    hc.without_attack

theorem issueCommand_inv {word : BitVec 32} {s : State} (h : s.Inv) (hp : s.phase ≠ .fault) :
    (issueCommand word s).Inv := by
  have hf : s.fatal = false := by simpa [hp] using h.fatal_phase
  exact Quiet.inv ⟨rfl, hf, rfl, rfl, rfl, rfl, rfl⟩ rfl rfl (issueCommand_memory_wf h.memory) nofun
    (.inr ⟨rfl, rfl, rfl, rfl⟩) (h.countsFit.without_attack)

/-! ### Each phase keeps the invariant -/

/-- A next state the result answers meets the invariant. -/
def KeepsInv (r : Result) : Prop := ∀ t, r = .next t → t.Inv

theorem keepsInv_next {t : State} (h : t.Inv) : KeepsInv (.next t) := by
  rintro _ ⟨⟩
  exact h

theorem keepsInv_fault (f : Fault) : KeepsInv (.fault f) := by
  rintro _ ⟨⟩

theorem execDecode_keepsInv {s : State} (h : s.Inv) (hp : s.phase = .decode) : KeepsInv (execDecode s) := by
  have hq := h.quiet (by rw [hp]; rfl)
  have hr := h.noAttackResults_early hq (by rw [hp]; rfl)
  obtain ⟨-, e⟩ | ⟨-, e⟩ | ⟨-, e⟩ | ⟨-, e⟩ | ⟨-, -, -, -, e⟩ := execDecode_cases s <;> rw [e] <;> apply keepsInv_next
  · exact Quiet.inv hq rfl nofun h.memory nofun (.inr hr) h.countsFit
  · exact Quiet.inv hq rfl nofun h.memory nofun (.inr hr) h.countsFit
  · exact Quiet.inv hq rfl (.inl rfl) h.memory nofun (.inr hr) h.countsFit
  · exact Quiet.inv hq rfl (.inr rfl) h.memory nofun (.inr hr) h.countsFit
  · exact enterNonFatal_inv rfl hq.not_fatal h.memory h.countsFit

theorem execParse_keepsInv {s : State} (h : s.Inv) (hp : s.phase = .parse) : KeepsInv (execParse s) := by
  have hq := h.quiet (by rw [hp]; rfl)
  have hr := h.noAttackResults_early hq (by rw [hp]; rfl)
  obtain ⟨_, _, hm, _, e⟩ | ⟨_, _, _, e⟩ | ⟨_, e⟩ := execParse_cases s <;> rw [e] <;> apply keepsInv_next
  · exact Quiet.inv hq rfl hm h.memory nofun (.inr hr) h.countsFit
  · have hm : s.mode ≠ .none := by obtain hm | hm := h.mode_parse hp <;> simp [hm]
    exact Quiet.inv hq rfl hm h.memory nofun (.inr hr) h.countsFit
  · exact enterNonFatal_inv rfl hq.not_fatal h.memory h.countsFit

theorem glueBytes_length_le (total : Nat) : (glueBytes total).length ≤ 72 := by
  have := (zeroCount_mod (total % 64) (Nat.mod_lt _ (by decide))).2
  rw [glueBytes, padBytes_length]
  omega

/-- The prior blocks of a total that passes GLUE's length check are fewer than `2^64` bytes. -/
theorem priorBlockCount_lt {total : Nat} (h : total < lengthLimit) : 64 * priorBlockCount total < 2 ^ 64 := by
  have := glueBytes_length_le total
  unfold lengthLimit at h
  unfold priorBlockCount
  omega

theorem execGlue_keepsInv {s : State} (h : s.Inv) (hp : s.phase = .glue) : KeepsInv (execGlue s) := by
  have hq := h.quiet (by rw [hp]; rfl)
  have hm := h.mode_glue hp
  obtain ⟨_, e⟩ | ⟨_, _, e⟩ | ⟨hlt, hfit, e⟩ := execGlue_cases s <;> rw [e] <;> apply keepsInv_next
  · exact enterNonFatal_inv rfl hq.not_fatal h.memory h.countsFit
  · exact enterFatal_inv rfl h.memory h.countsFit
  · obtain ⟨hkey, hmsg, hsfx, hdhex, hwork, -⟩ := h.memory
    obtain ⟨hprior, -, hnblk, hidx, -, -⟩ := h.countsFit
    refine Quiet.inv hq rfl ?_ ⟨hkey, hmsg, hsfx, hdhex, hwork, ?_⟩ nofun (.inl ⟨hm, rfl⟩)
      ⟨hprior, priorBlockCount_lt hlt, hnblk, hidx, ?_, ?_⟩
    · simp [ModeFits, hm]
    · simpa [Nat.add_assoc] using hfit
    · have := bufCap_lt
      show s.msg.length < _
      omega
    · have := glueBytes_length_le (priorTotalLength s)
      show (glueBytes _).length < _
      omega

theorem execLoad_keepsInv {s : State} (h : s.Inv) (hp : s.phase = .load) : KeepsInv (execLoad s) := by
  have hq := h.quiet (by rw [hp]; rfl)
  have hm : s.mode ≠ .none := h.mode_hashing (by rw [hp]; rfl)
  have hres := (h.hashing_results hq).imp_left fun ha => And.intro ha (rfl : phaseIsHashing .pad = true)
  obtain ⟨hkey, hmsg, hsfx, hdhex, -, hout⟩ := h.memory
  obtain ⟨-, hpbc, hnblk, hidx, hoff, hlen⟩ := h.countsFit
  obtain ⟨_, e⟩ | ⟨_, hfit, e⟩ | ⟨_, _, e⟩ | ⟨_, e⟩ | ⟨_, e⟩ := execLoad_cases s <;> rw [e]
  · exact keepsInv_next <| Quiet.inv hq rfl hm ⟨hkey, hmsg, hsfx, hdhex, hmsg, hout⟩ nofun hres
      ⟨by simp, hpbc, hnblk, hidx, hoff, hlen⟩
  · have hwork : (s.key ++ s.msg).length ≤ Config.bufCap := by simpa [Nat.add_comm] using hfit
    exact keepsInv_next <| Quiet.inv hq rfl hm ⟨hkey, hmsg, hsfx, hdhex, hwork, hout⟩ nofun hres
      ⟨by simp, hpbc, hnblk, hidx, hoff, hlen⟩
  · exact keepsInv_next <| enterFatal_inv rfl ⟨hkey, hmsg, hsfx, hdhex, hmsg, hout⟩ h.countsFit
  · exact keepsInv_next <| Quiet.inv hq rfl hm ⟨hkey, hmsg, hsfx, hdhex, hsfx, hout⟩ nofun hres
      ⟨hpbc, hpbc, hnblk, hidx, hoff, hlen⟩
  · exact keepsInv_fault _

/-- A padded message is a whole number of blocks (41 R113). -/
theorem padded_length_eq_blocks (message : Buffer) (prior : Nat) :
    (padded message prior).length = 64 * ((padded message prior).length / 64) := by
  have := length_add_padBytes_mod message.length (message.length + prior)
  rw [← List.length_append] at this
  exact (Nat.mul_div_cancel' (Nat.dvd_of_mod_eq_zero this)).symm

theorem execPad_keepsInv {s : State} (h : s.Inv) (hp : s.phase = .pad) : KeepsInv (execPad s) := by
  have hq := h.quiet (by rw [hp]; rfl)
  have hm : s.mode ≠ .none := h.mode_hashing (by rw [hp]; rfl)
  have hres := (h.hashing_results hq).imp_left fun ha => And.intro ha (rfl : phaseIsHashing .fetch = true)
  obtain ⟨_, e⟩ | ⟨_, _, e⟩ | ⟨_, hfit, e⟩ := execPad_cases s <;> rw [e] <;> apply keepsInv_next
  · exact enterNonFatal_inv rfl hq.not_fatal h.memory h.countsFit
  · exact enterFatal_inv rfl h.memory h.countsFit
  · obtain ⟨hkey, hmsg, hsfx, hdhex, -, hout⟩ := h.memory
    obtain ⟨hprior, hpbc, -, -, hoff, hlen⟩ := h.countsFit
    have hnblk : (padded s.work s.prior).length / 64 < 2 ^ 64 := by
      have := bufCap_lt
      omega
    exact Quiet.inv hq rfl hm ⟨hkey, hmsg, hsfx, hdhex, hfit, hout⟩
      (fun _ => ⟨padded_length_eq_blocks _ _, Nat.zero_le _, fun hne => absurd rfl hne, nofun⟩) hres
      ⟨hprior, hpbc, hnblk, by simp, hoff, hlen⟩

theorem execFetch_keepsInv {s : State} (h : s.Inv) (hp : s.phase = .fetch) : KeepsInv (execFetch s) := by
  have hq := h.quiet (by rw [hp]; rfl)
  have hm : s.mode ≠ .none := h.mode_hashing (by rw [hp]; rfl)
  obtain ⟨hwork, hidx, -, -⟩ := h.loopFits (by rw [hp]; rfl)
  have hres := h.hashing_results hq
  obtain ⟨_, e⟩ | ⟨hne, _, e⟩ | ⟨_, _, e⟩ := execFetch_cases s <;> rw [e]
  · exact keepsInv_next <| Quiet.inv hq rfl hm h.memory nofun (hres.imp_left (⟨·, rfl⟩)) h.countsFit
  · exact keepsInv_next <| Quiet.inv hq rfl hm h.memory
      (fun _ => ⟨hwork, hidx, fun _ => Nat.lt_of_le_of_ne hidx hne, nofun⟩) (hres.imp_left (⟨·, rfl⟩)) h.countsFit
  · exact keepsInv_fault _

theorem execSched_keepsInv {s : State} (h : s.Inv) (hp : s.phase = .sched) : KeepsInv (execSched s) := by
  have hq := h.quiet (by rw [hp]; rfl)
  have hm : s.mode ≠ .none := h.mode_hashing (by rw [hp]; rfl)
  obtain ⟨hwork, hidx, hblock, -⟩ := h.loopFits (by rw [hp]; rfl)
  exact keepsInv_next <| Quiet.inv hq rfl hm h.memory
    (fun _ => ⟨hwork, hidx, fun _ => hblock (by simp [hp]), fun _ => Nat.zero_lt_succ 63⟩)
    ((h.hashing_results hq).imp_left (⟨·, rfl⟩)) h.countsFit

theorem execRound_keepsInv {s : State} (h : s.Inv) (hp : s.phase = .round) : KeepsInv (execRound s) := by
  have hq := h.quiet (by rw [hp]; rfl)
  have hm : s.mode ≠ .none := h.mode_hashing (by rw [hp]; rfl)
  obtain ⟨hwork, hidx, hblock, -⟩ := h.loopFits (by rw [hp]; rfl)
  have hlt : s.blkidx < s.nblk := hblock (by simp [hp])
  have hres := h.hashing_results hq
  obtain ⟨ht, e⟩ | ⟨_, e⟩ := execRound_cases s <;> rw [e]
  · apply keepsInv_next
    by_cases hlast : s.t.val + 1 = 64
    · simp only [hlast, if_true]
      exact Quiet.inv hq rfl hm h.memory (fun _ => ⟨hwork, hidx, fun _ => hlt, nofun⟩) (hres.imp_left (⟨·, rfl⟩))
        h.countsFit
    · simp only [hlast, if_false]
      have hnext : s.t.val + 1 < 64 := by omega
      exact Quiet.inv hq rfl hm h.memory (fun _ => ⟨hwork, hidx, fun _ => hlt, fun _ => hnext⟩)
        (hres.imp_left (⟨·, rfl⟩)) h.countsFit
  · exact keepsInv_fault _

theorem execFold_keepsInv {s : State} (h : s.Inv) (hp : s.phase = .fold) : KeepsInv (execFold s) := by
  have hq := h.quiet (by rw [hp]; rfl)
  have hm : s.mode ≠ .none := h.mode_hashing (by rw [hp]; rfl)
  obtain ⟨hwork, -, hblock, -⟩ := h.loopFits (by rw [hp]; rfl)
  have hlt : s.blkidx < s.nblk := hblock (by simp [hp])
  obtain ⟨hprior, hpbc, hnblk, -, hoff, hlen⟩ := h.countsFit
  exact keepsInv_next <| Quiet.inv hq rfl hm h.memory (fun _ => ⟨hwork, hlt, fun hne => absurd rfl hne, nofun⟩)
    ((h.hashing_results hq).imp_left (⟨·, rfl⟩)) ⟨hprior, hpbc, hnblk, Nat.lt_of_le_of_lt hlt hnblk, hoff, hlen⟩

theorem execFinish_keepsInv {s : State} (h : s.Inv) (hp : s.phase = .finish) : KeepsInv (execFinish s) := by
  have hq := h.quiet (by rw [hp]; rfl)
  have hres := h.hashing_results hq
  obtain ⟨-, hf, he, hd, hm, -, ho⟩ := hq
  have hovalid : (if s.mode = .attack then true else s.ovalid) = decide (s.mode = .attack) := by simp [ho]
  have hmatched : (if s.mode = .valmac then equal8 s.h s.din else s.matched) = true → s.mode = .valmac := by
    intro h
    by_contra hv
    simp [hv, hm] at h
  refine keepsInv_next {
    busy_phase := rfl
    fatal_phase := hf
    fatal_code := by simp [hf, he, isFatal]
    done_clear := fun _ => ⟨rfl, he⟩
    busy_clear := nofun
    dvalid_done := rfl
    ovalid_attack := hovalid
    matched_valmac := fun h => ⟨rfl, hmatched h⟩
    mode_decode := nofun
    mode_parse := nofun
    mode_glue := nofun
    mode_hashing := nofun
    memory := (clearInputs_memory_wf h.memory :)
    loop_work := nofun
    loop_block := nofun
    round_index := nofun
    attack_results := ?_
    counts := h.counts }
  obtain hm | hres := hres
  · exact .inl (by simp [hm])
  · exact .inr (.inr hres)

/-- The operation of the phase a state is in keeps the invariant. -/
theorem exec_phaseInstr_keepsInv {s : State} (h : s.Inv) : KeepsInv (exec (phaseInstr s.phase) s) := by
  cases hp : s.phase with
  | idle => exact keepsInv_next h
  | decode => exact execDecode_keepsInv h hp
  | parse => exact execParse_keepsInv h hp
  | glue => exact execGlue_keepsInv h hp
  | load => exact execLoad_keepsInv h hp
  | pad => exact execPad_keepsInv h hp
  | fetch => exact execFetch_keepsInv h hp
  | sched => exact execSched_keepsInv h hp
  | round => exact execRound_keepsInv h hp
  | fold => exact execFold_keepsInv h hp
  | finish => exact execFinish_keepsInv h hp
  | fault => exact keepsInv_next h

/-! ### Host writes and the step -/

/-- A host write that is not held keeps the invariant. -/
theorem runEncoded_write_keepsInv {s : State} (h : s.Inv) (hb : s.busy = false) (reg : BitVec 8) (value : BitVec 64) :
    KeepsInv (runEncoded (.write reg value) s) := by
  obtain e | ⟨_, _, e⟩ | ⟨_, _, hp, e⟩ | ⟨p, _, _, hl, e⟩ | ⟨p, _, _, _, e⟩ | ⟨_, _, e⟩ | ⟨_, _, e⟩ :=
    runEncoded_write_cases reg value s hb <;> rw [e] <;> apply keepsInv_next
  · exact h
  · exact applyReset_inv s
  · exact issueCommand_inv h hp
  · exact setInput_inv h (by simpa using hl)
  · exact enterFatal_inv rfl h.memory h.countsFit
  · exact h.of_host_fields _ _ _ _
  · exact h.of_host_fields _ _ _ _

theorem step_keepsInv {s : State} (h : s.Inv) : KeepsInv (step s) := by
  have ha := afterTurn_inv h
  obtain e | e | ⟨reg, e⟩ | ⟨reg, value, hb, e⟩ := step_cases s <;> rw [e]
  · exact exec_phaseInstr_keepsInv ha
  · exact keepsInv_next (applyReset_inv _)
  · exact keepsInv_next (completeRead_inv reg ha)
  · exact runEncoded_write_keepsInv ha hb reg value

/-- Settles O7, by a case split on the turn (`step_cases`) and, for the sequencer's turn, on the phase. -/
theorem everyStepKeepsTheInvariant : Obligations.EveryStepKeepsTheInvariant :=
  fun _ t h e => step_keepsInv h t e

/-! ### `ROTR` and `SHR` (00_scope R16) -/

theorem shr_getLsbD (x : Word) (n i : Nat) : (shr x n).getLsbD i = x.getLsbD (i + n) := by
  rw [shr, BitVec.getLsbD_ushiftRight, Nat.add_comm]

theorem shr_toNat (x : Word) (n : Nat) : (shr x n).toNat = x.toNat / 2 ^ n := by
  rw [shr, BitVec.toNat_ushiftRight, Nat.shiftRight_eq_div_pow]

/-- Below the wrap the bit comes from the right shift, past it from the left shift. -/
theorem rotr_getLsbD (x : Word) {n i : Nat} (hn : n < 32) (hi : i < 32) :
    (rotr x n).getLsbD i = x.getLsbD ((i + n) % 32) := by
  simp only [rotr, BitVec.getLsbD_or, BitVec.getLsbD_ushiftRight, BitVec.getLsbD_shiftLeft]
  by_cases hwrap : i + n < 32
  · have hlow : i < 32 - n := by omega
    simp [hlow, Nat.mod_eq_of_lt hwrap, Nat.add_comm n i]
  · have hhigh : ¬i < 32 - n := by omega
    have hzero : x.getLsbD (n + i) = false := BitVec.getLsbD_of_ge _ _ (by omega)
    have hbit : (i + n) % 32 = i - (32 - n) := by omega
    simp [hi, hhigh, hzero, hbit]

/-- Settles O46, by splitting `ROTR` at the wrap (`rotr_getLsbD`). -/
theorem rotateAndShiftBitByBit : Obligations.RotateAndShiftBitByBit :=
  fun x n i _ hn hi => ⟨rotr_getLsbD x hn hi, shr_getLsbD x n i, shr_toNat x n⟩

/-! ### The model's own stops (log 13) -/

theorem execLoad_of_none {s : State} (h : s.mode = .none) : execLoad s = .fault .loadWithoutMode := by
  simp only [execLoad, h]

theorem execFetch_of_missing_bytes {s : State} (hne : s.blkidx ≠ s.nblk) (hl : s.work.length < 64 * s.blkidx + 64) :
    execFetch s = .fault .readBeyondWork := by
  obtain ⟨heq, _⟩ | ⟨_, hle, _⟩ | ⟨_, _, e⟩ := execFetch_cases s
  · exact absurd heq hne
  · omega
  · exact e

theorem execRound_of_last {s : State} (h : s.t.val = 64) : execRound s = .fault .roundIndexOutOfRange := by
  obtain ⟨ht, _⟩ | ⟨_, e⟩ := execRound_cases s
  · omega
  · exact e

/-- No phase has a code from `1011` to `1110` (30 R77). -/
theorem phaseCode_outside_unused (p : Phase) : ¬(0b1011 ≤ (phaseCode p).toNat ∧ (phaseCode p).toNat ≤ 0b1110) := by
  cases p <;> decide

theorem runEncoded_of_unused {code : BitVec 4} (hlo : 0b1011 ≤ code.toNat) (hhi : code.toNat ≤ 0b1110) (s : State) :
    runEncoded (.phase code) s = .fault .unusedPhaseCode := by
  obtain ⟨p, rfl, _⟩ | e := decodePhase_cases code
  · exact absurd ⟨hlo, hhi⟩ (phaseCode_outside_unused p)
  · simp only [runEncoded, decode, e, runRejected]

/-- Settles O37: each of the four operations takes the branch that faults. -/
theorem faultsWhereNoRuleApplies : Obligations.FaultsWhereNoRuleApplies :=
  fun s => ⟨execLoad_of_none, execFetch_of_missing_bytes, execRound_of_last,
    fun _ hlo hhi => runEncoded_of_unused hlo hhi s⟩

end Sys2Proof.Machine

/-! ## Proofs of the state family (10_state): the state after reset, and the inputs of a running command -/

namespace Sys2Proof.Machine

/-! ### What a reset leaves (10_state R39, 70 R241) -/

/-- `t` has every value the spec gives the state after a reset, and `also` holds. -/
def HasResetValuesAnd (t : State) (also : Prop) : Prop :=
  t.phase = .idle ∧ statusWord t = 0x00000000#32 ∧ t.cmdreg = 0#32 ∧ t.keylen = 0#64 ∧ t.key = [] ∧ t.msg = [] ∧
    t.sfx = [] ∧ t.dhex = [] ∧ t.out = [] ∧ t.outAddr = 0#64 ∧ t.glueOff = 0 ∧ t.glueLen = 0 ∧ t.pbc = 0 ∧
    (∀ i : Fin 8, t.h[i] = 0#32 ∧ t.din[i] = 0#32) ∧ also

theorem reset_hasResetValues {also : Prop} (h : also) : HasResetValuesAnd State.reset also :=
  ⟨rfl, by decide, rfl, rfl, rfl, rfl, rfl, rfl, rfl, rfl, rfl, rfl, rfl,
    fun _ => ⟨Vector.getElem_replicate _, Vector.getElem_replicate _⟩, h⟩

/-- A reset at run time differs from `State.reset` only in fields the spec gives no value. -/
theorem applyReset_hasResetValues (s : State) {also : Prop} (h : also) : HasResetValuesAnd (applyReset s) also :=
  reset_hasResetValues h

/-- Settles O5: the state's values by `reset_hasResetValues`, the constants by evaluation. -/
theorem resetLeavesTheStatedValues : Obligations.ResetLeavesTheStatedValues :=
  reset_hasResetValues (by decide)

/-- Settles O6: the reset state is idle and shows no result (`inv_without_results`). -/
theorem invariantHoldsAtReset : Obligations.InvariantHoldsAtReset :=
  inv_without_results (.inl ⟨rfl, rfl, rfl⟩) rfl rfl rfl rfl rfl reset_memory_wf ⟨rfl, rfl, rfl, rfl⟩
    (by simp [CountsFit, State.reset])

theorem writeCommand_srst {s : State} (hb : s.busy = false) : writeCommand wordSrst s = applyReset s := by
  simp [writeCommand, hb]

theorem exec_srst {s : State} (hb : s.busy = false) : exec .srst s = .next (applyReset s) :=
  congrArg _ (writeCommand_srst hb)

/-- Settles O10: with `BUSY = 0` the write of `SRST` is `applyReset`, in `IDLE` and in `FAULT`. -/
theorem softResetCompletes : Obligations.SoftResetCompletes :=
  fun s hb _ => ⟨_, exec_srst hb, applyReset_hasResetValues s ⟨List.length_take_le _ _, rfl, rfl⟩⟩

/-- Settles O11, by the two forms of the step: the reset stands first, or right behind a held transaction. -/
theorem hardResetTakesEffectAtOnce : Obligations.HardResetTakesEffectAtOnce :=
  fun _ _ =>
    ⟨fun hp => ⟨_, step_of_hardReset hp, applyReset_hasResetValues _ rfl⟩,
      fun _ ha hp => ⟨_, step_of_held_hardReset ha hp, applyReset_hasResetValues _ rfl⟩⟩

/-! ### The inputs of a running command (10_state R28, 70 R246) -/

/-- `BUSY`, the four input buffers and `KEYLEN`. -/
def busyAndInputs (s : State) : Bool × Buffer × Buffer × Buffer × Buffer × BitVec 64 :=
  (s.busy, s.key, s.msg, s.sfx, s.dhex, s.keylen)

/-- A next state the result answers has `BUSY` and the inputs as in `s`, or is not busy and has none. -/
def KeepsOrEndsInputs (s : State) (r : Result) : Prop :=
  ∀ t, r = .next t → busyAndInputs t = busyAndInputs s ∨ busyAndInputs t = (false, [], [], [], [], 0#64)

section
variable {s t : State}

theorem keepsOrEndsInputs_of_kept (h : busyAndInputs t = busyAndInputs s) : KeepsOrEndsInputs s (.next t) := by
  rintro _ ⟨⟩
  exact .inl h

theorem keepsOrEndsInputs_of_ended (h : busyAndInputs t = (false, [], [], [], [], 0#64)) :
    KeepsOrEndsInputs s (.next t) := by
  rintro _ ⟨⟩
  exact .inr h

end

theorem keepsOrEndsInputs_fault (s : State) (f : Fault) : KeepsOrEndsInputs s (.fault f) := by
  rintro _ ⟨⟩

theorem execDecode_inputs (s : State) : KeepsOrEndsInputs s (execDecode s) := by
  obtain ⟨-, e⟩ | ⟨-, e⟩ | ⟨-, e⟩ | ⟨-, e⟩ | ⟨-, -, -, -, e⟩ := execDecode_cases s <;> rw [e]
  · exact keepsOrEndsInputs_of_kept rfl
  · exact keepsOrEndsInputs_of_kept rfl
  · exact keepsOrEndsInputs_of_kept rfl
  · exact keepsOrEndsInputs_of_kept rfl
  · exact keepsOrEndsInputs_of_ended rfl

theorem execParse_inputs (s : State) : KeepsOrEndsInputs s (execParse s) := by
  obtain ⟨_, -, -, -, e⟩ | ⟨_, -, -, e⟩ | ⟨-, e⟩ := execParse_cases s <;> rw [e]
  · exact keepsOrEndsInputs_of_kept rfl
  · exact keepsOrEndsInputs_of_kept rfl
  · exact keepsOrEndsInputs_of_ended rfl

theorem execGlue_inputs (s : State) : KeepsOrEndsInputs s (execGlue s) := by
  obtain ⟨-, e⟩ | ⟨-, -, e⟩ | ⟨-, -, e⟩ := execGlue_cases s <;> rw [e]
  · exact keepsOrEndsInputs_of_ended rfl
  · exact keepsOrEndsInputs_of_ended rfl
  · exact keepsOrEndsInputs_of_kept rfl

theorem execLoad_inputs (s : State) : KeepsOrEndsInputs s (execLoad s) := by
  obtain ⟨-, e⟩ | ⟨-, -, e⟩ | ⟨-, -, e⟩ | ⟨-, e⟩ | ⟨-, e⟩ := execLoad_cases s <;> rw [e]
  · exact keepsOrEndsInputs_of_kept rfl
  · exact keepsOrEndsInputs_of_kept rfl
  · exact keepsOrEndsInputs_of_ended rfl
  · exact keepsOrEndsInputs_of_kept rfl
  · exact keepsOrEndsInputs_fault s _

theorem execPad_inputs (s : State) : KeepsOrEndsInputs s (execPad s) := by
  obtain ⟨-, e⟩ | ⟨-, -, e⟩ | ⟨-, -, e⟩ := execPad_cases s <;> rw [e]
  · exact keepsOrEndsInputs_of_ended rfl
  · exact keepsOrEndsInputs_of_ended rfl
  · exact keepsOrEndsInputs_of_kept rfl

theorem execFetch_inputs (s : State) : KeepsOrEndsInputs s (execFetch s) := by
  obtain ⟨-, e⟩ | ⟨-, -, e⟩ | ⟨-, -, e⟩ := execFetch_cases s <;> rw [e]
  · exact keepsOrEndsInputs_of_kept rfl
  · exact keepsOrEndsInputs_of_kept rfl
  · exact keepsOrEndsInputs_fault s _

theorem execRound_inputs (s : State) : KeepsOrEndsInputs s (execRound s) := by
  obtain ⟨_, e⟩ | ⟨-, e⟩ := execRound_cases s <;> rw [e]
  · exact keepsOrEndsInputs_of_kept rfl
  · exact keepsOrEndsInputs_fault s _

/-- The operation of any phase keeps the inputs or, as it ends the command, empties them. -/
theorem exec_phaseInstr_inputs (p : Phase) (s : State) : KeepsOrEndsInputs s (exec (phaseInstr p) s) := by
  cases p with
  | idle => exact keepsOrEndsInputs_of_kept rfl
  | decode => exact execDecode_inputs s
  | parse => exact execParse_inputs s
  | glue => exact execGlue_inputs s
  | load => exact execLoad_inputs s
  | pad => exact execPad_inputs s
  | fetch => exact execFetch_inputs s
  | sched => exact keepsOrEndsInputs_of_kept rfl
  | round => exact execRound_inputs s
  | fold => exact keepsOrEndsInputs_of_kept rfl
  | finish => exact keepsOrEndsInputs_of_ended rfl
  | fault => exact keepsOrEndsInputs_of_kept rfl

/-- Settles O40: the instruction is that of the phase, and `exec_phaseInstr_inputs` gives its two outcomes. -/
theorem onlyTerminationClearsTheInputs : Obligations.OnlyTerminationClearsTheInputs := by
  intro s t i hb hi e
  obtain rfl : phaseInstr s.phase = i := Decoded.instr.inj ((decode_phaseCode s.phase).symm.trans hi)
  simpa only [busyAndInputs, Prod.mk.injEq, hb] using exec_phaseInstr_inputs s.phase s t e

end Sys2Proof.Machine

/-! ## Proofs of the memory family (20_memory): no step stops, reads, the message schedule, how long results last -/

namespace Sys2Proof.Machine

/-! ### No step stops (20 R55, R61) -/

/-- The result is a next state, neither a fault nor a refusal. -/
def Answers (r : Result) : Prop := ∃ t, r = .next t

theorem answers_next (t : State) : Answers (.next t) := ⟨t, rfl⟩

theorem execDecode_answers (s : State) : Answers (execDecode s) := by
  obtain ⟨-, e⟩ | ⟨-, e⟩ | ⟨-, e⟩ | ⟨-, e⟩ | ⟨-, -, -, -, e⟩ := execDecode_cases s <;> exact ⟨_, e⟩

theorem execParse_answers (s : State) : Answers (execParse s) := by
  obtain ⟨_, -, -, -, e⟩ | ⟨_, -, -, e⟩ | ⟨-, e⟩ := execParse_cases s <;> exact ⟨_, e⟩

theorem execGlue_answers (s : State) : Answers (execGlue s) := by
  obtain ⟨-, e⟩ | ⟨-, -, e⟩ | ⟨-, -, e⟩ := execGlue_cases s <;> exact ⟨_, e⟩

/-- With a mode selected, LOAD has a case (43 R141). -/
theorem execLoad_answers {s : State} (hm : s.mode ≠ .none) : Answers (execLoad s) := by
  obtain ⟨-, e⟩ | ⟨-, -, e⟩ | ⟨-, -, e⟩ | ⟨-, e⟩ | ⟨hn, -⟩ := execLoad_cases s
  · exact ⟨_, e⟩
  · exact ⟨_, e⟩
  · exact ⟨_, e⟩
  · exact ⟨_, e⟩
  · exact absurd hn hm

theorem execPad_answers (s : State) : Answers (execPad s) := by
  obtain ⟨-, e⟩ | ⟨-, -, e⟩ | ⟨-, -, e⟩ := execPad_cases s <;> exact ⟨_, e⟩

/-- Where `WORK` is `NBLK` whole blocks, the block FETCH reads exists (43 R143). -/
theorem execFetch_answers {s : State} (hwork : s.work.length = 64 * s.nblk) (hidx : s.blkidx ≤ s.nblk) :
    Answers (execFetch s) := by
  obtain ⟨-, e⟩ | ⟨-, -, e⟩ | ⟨hne, hshort, -⟩ := execFetch_cases s
  · exact ⟨_, e⟩
  · exact ⟨_, e⟩
  · omega

theorem execRound_answers {s : State} (ht : s.t.val < 64) : Answers (execRound s) := by
  obtain ⟨_, e⟩ | ⟨hlast, -⟩ := execRound_cases s
  · exact ⟨_, e⟩
  · omega

/-- Under the invariant the operation of the phase a state is in answers a next state. -/
theorem exec_phaseInstr_answers {s : State} (h : s.Inv) : Answers (exec (phaseInstr s.phase) s) := by
  cases hp : s.phase with
  | idle => exact answers_next _
  | decode => exact execDecode_answers s
  | parse => exact execParse_answers s
  | glue => exact execGlue_answers s
  | load => exact execLoad_answers (h.mode_hashing (by rw [hp]; rfl))
  | pad => exact execPad_answers s
  | fetch =>
    obtain ⟨hwork, hidx⟩ := h.loop_work (by rw [hp]; rfl)
    exact execFetch_answers hwork hidx
  | sched => exact answers_next _
  | round => exact execRound_answers (h.round_index hp)
  | fold => exact answers_next _
  | finish => exact answers_next _
  | fault => exact answers_next _

/-- A host write that is not held answers a next state. -/
theorem runEncoded_write_answers {s : State} (hb : s.busy = false) (reg : BitVec 8) (value : BitVec 64) :
    Answers (runEncoded (.write reg value) s) := by
  obtain e | ⟨-, -, e⟩ | ⟨-, -, -, e⟩ | ⟨_, -, -, -, e⟩ | ⟨_, -, -, -, e⟩ | ⟨-, -, e⟩ | ⟨-, -, e⟩ :=
    runEncoded_write_cases reg value s hb <;> exact ⟨_, e⟩

/-- Settles O8: only the phases LOAD, FETCH and ROUND can stop, and the invariant rules their stops out
(`exec_phaseInstr_answers`). -/
theorem noStepStopsUnderTheInvariant : Obligations.NoStepStopsUnderTheInvariant := by
  intro s h
  obtain e | e | ⟨_, e⟩ | ⟨reg, value, hb, e⟩ := step_cases s
  · obtain ⟨t, ht⟩ := exec_phaseInstr_answers (afterTurn_inv h)
    exact ⟨t, e.trans ht⟩
  · exact ⟨_, e⟩
  · exact ⟨_, e⟩
  · obtain ⟨t, ht⟩ := runEncoded_write_answers (s := afterTurn s) hb reg value
    exact ⟨t, e.trans ht⟩

/-! ### Reads (20 R57) -/

/-- What a register reads as does not depend on the host's coming actions. -/
theorem hostRead_of_pending (reg : BitVec 8) (s : State) (pending : List HostAction) :
    hostRead reg { s with pending := pending } = hostRead reg s := rfl

/-- Settles O14: with `BUSY = 0` a read at the head of the host's list completes (`step_of_read`). -/
theorem readsHaveNoSideEffect : Obligations.ReadsHaveNoSideEffect := by
  intro s reg rest hb hp
  rw [step_of_read (.inl hb) hp, completeRead, hostRead_of_pending]

/-! ### The message schedule (20 R51; 42 R126) -/

theorem toNat_append_byte {n : Nat} (x : BitVec n) (b : Byte) : (x ++ b).toNat = x.toNat * 2 ^ 8 + b.toNat := by
  rw [BitVec.toNat_append, ← Nat.shiftLeft_add_eq_or_of_lt b.isLt, Nat.shiftLeft_eq]

theorem be32_toNat (b0 b1 b2 b3 : Byte) :
    (be32 b0 b1 b2 b3).toNat = b0.toNat * 2 ^ 24 + b1.toNat * 2 ^ 16 + b2.toNat * 2 ^ 8 + b3.toNat := by
  simp only [be32, toNat_append_byte]
  omega

/-- Entry `j` of `ws` obeys the recurrence on the entries below it (42 R126). -/
def ObeysRecurrence (ws : List Word) (j : Nat) : Prop :=
  ws.getD j 0#32 = smallSigma1 (ws.getD (j - 2) 0#32) + ws.getD (j - 7) 0#32 +
    smallSigma0 (ws.getD (j - 15) 0#32) + ws.getD (j - 16) 0#32

/-- Extending the schedule keeps the entries it has. -/
theorem extendSchedule_getD_of_lt (n : Nat) {ws : List Word} {j : Nat} (hj : j < ws.length) :
    (extendSchedule n ws).getD j 0#32 = ws.getD j 0#32 := by
  induction n generalizing ws with
  | zero => rfl
  | succ n ih =>
    rw [extendSchedule, ih (by simp; omega), List.getD_append _ _ _ _ hj]

/-- The first entry added is the recurrence on those before it. -/
theorem extendSchedule_getD_length (n : Nat) (ws : List Word) :
    (extendSchedule (n + 1) ws).getD ws.length 0#32 = nextScheduleWord ws := by
  rw [extendSchedule, extendSchedule_getD_of_lt n (by simp), List.getD_append_right _ _ _ _ (Nat.le_refl _)]
  simp

/-- Every entry added to 16 or more obeys the recurrence. -/
theorem extendSchedule_obeysRecurrence {n : Nat} {ws : List Word} {j : Nat} (hlen : 16 ≤ ws.length)
    (hlo : ws.length ≤ j) (hhi : j < ws.length + n) : ObeysRecurrence (extendSchedule n ws) j := by
  induction n generalizing ws with
  | zero => omega
  | succ n ih =>
    obtain rfl | hlt := Nat.eq_or_lt_of_le hlo
    · have hbelow : ∀ k, 0 < k → (extendSchedule (n + 1) ws).getD (ws.length - k) 0#32 = ws.getD (ws.length - k) 0#32 :=
        fun k hk => extendSchedule_getD_of_lt _ (by omega)
      rw [ObeysRecurrence, extendSchedule_getD_length, hbelow 2 (by decide), hbelow 7 (by decide),
        hbelow 15 (by decide), hbelow 16 (by decide)]
      rfl
    · exact ih (ws := ws ++ [nextScheduleWord ws]) (by simp; omega) (by simpa using hlt) (by simp; omega)

theorem schedule_getElem (block : Vector Byte 64) (j : Nat) (hj : j < 64) :
    (schedule block)[j] = (scheduleList block).getD j 0#32 :=
  Vector.getElem_ofFn hj

theorem schedule_getElem_low (block : Vector Byte 64) (j : Fin 16) : (schedule block)[j.val] = blockWord block j := by
  have hlen : (List.ofFn (blockWord block)).length = 16 := List.length_ofFn
  rw [schedule_getElem, scheduleList, extendSchedule_getD_of_lt _ (by rw [hlen]; exact j.isLt),
    List.getD_eq_getElem _ _ (by rw [hlen]; exact j.isLt), List.getElem_ofFn]

theorem scheduleList_obeysRecurrence (block : Vector Byte 64) {j : Nat} (hlo : 16 ≤ j) (hhi : j < 64) :
    ObeysRecurrence (scheduleList block) j := by
  have hlen : (List.ofFn (blockWord block)).length = 16 := List.length_ofFn
  exact extendSchedule_obeysRecurrence (by omega) (by omega) (by omega)

/-- Settles O33 with `schedule s.block`: its first words are the block's (`schedule_getElem_low`, `be32_toNat`), the
others obey the recurrence (`scheduleList_obeysRecurrence`). -/
theorem schedBuildsTheMessageSchedule : Obligations.SchedBuildsTheMessageSchedule := by
  refine ⟨decode_phaseCode .sched, fun s => ⟨schedule s.block, rfl, fun j => ?_, fun j hj => ?_⟩⟩
  · rw [schedule_getElem_low, blockWord, be32_toNat]
  · simpa only [ObeysRecurrence, Fin.getElem_fin, schedule_getElem] using scheduleList_obeysRecurrence s.block hj j.isLt

/-! ### How long results last (70 R247) -/

/-- What a finished command shows: the digests, the forged message, the attack registers and the status word. -/
def results (s : State) : Vector Word 8 × Vector Word 8 × Buffer × Nat × Nat × Nat × BitVec 32 :=
  (s.h, s.din, s.out, s.glueOff, s.glueLen, s.pbc, statusWord s)

theorem setInput_results (p : InputBuffer) (b : Buffer) (s : State) : results (setInput p b s) = results s := by
  cases p <;> rfl

/-- The host's next action writes a port whose buffer in `s` has no room. -/
def WritesFullPort (s : State) : Prop :=
  ∃ p value rest, s.pending = .write (portOf p) value :: rest ∧ Config.bufCap ≤ (inputOf p s).length

/-- A write to another register than `CMD` keeps the results or overflows a port's buffer. -/
theorem runEncoded_write_results {s : State} (hb : s.busy = false) {reg : BitVec 8} (hreg : reg ≠ regCmd)
    (value : BitVec 64) :
    (∃ t, runEncoded (.write reg value) s = .next t ∧ results t = results s) ∨
    (∃ p, reg = portOf p ∧ s.phase ≠ .fault ∧ Config.bufCap ≤ (inputOf p s).length ∧
      runEncoded (.write reg value) s = .next (enterFatal .allocationFailure s)) := by
  obtain e | ⟨hr, -⟩ | ⟨hr, -⟩ | ⟨p, -, -, -, e⟩ | hfull | ⟨-, -, e⟩ | ⟨-, -, e⟩ :=
    runEncoded_write_cases reg value s hb
  · exact .inl ⟨_, e, rfl⟩
  · exact absurd hr hreg
  · exact absurd hr hreg
  · exact .inl ⟨_, e, setInput_results p _ s⟩
  · exact .inr hfull
  · exact .inl ⟨_, e, rfl⟩
  · exact .inl ⟨_, e, rfl⟩

/-- Waiting in `IDLE` or `FAULT` changes nothing. -/
theorem exec_phaseInstr_of_waiting {p : Phase} (hp : p = .idle ∨ p = .fault) (s : State) :
    exec (phaseInstr p) s = .next s := by
  obtain rfl | rfl := hp <;> rfl

/-- With `BUSY = 0` a step that is neither a hard reset nor a write to `CMD` keeps the results or overflows a port's
buffer. -/
theorem step_results {s : State} (hb : s.busy = false) (hp : s.phase = .idle ∨ s.phase = .fault)
    (hreset : ∀ rest, s.pending ≠ .hardReset :: rest) (hcmd : ∀ value rest, s.pending ≠ .write regCmd value :: rest) :
    (∃ t, step s = .next t ∧ results t = results s) ∨
    (s.phase ≠ .fault ∧ WritesFullPort s ∧
      ∃ rest, step s = .next (enterFatal .allocationFailure { s with pending := rest })) := by
  obtain ⟨-, e⟩ | ⟨rest, -, e⟩ | ⟨rest, h, -⟩ | ⟨reg, rest, -, e⟩ | ⟨reg, value, rest, h, e⟩ := step_notBusy_cases hb
  · exact .inl ⟨_, e.trans (exec_phaseInstr_of_waiting hp _), rfl⟩
  · exact .inl ⟨_, e.trans (exec_phaseInstr_of_waiting hp _), rfl⟩
  · exact absurd h (hreset rest)
  · exact .inl ⟨_, e, rfl⟩
  · have hreg : reg ≠ regCmd := by
      rintro rfl
      exact hcmd value rest h
    obtain ⟨t, ht, hk⟩ | ⟨p, rfl, hnf, hfull, ht⟩ :=
      runEncoded_write_results (s := { s with pending := rest }) hb hreg value
    · exact .inl ⟨t, e.trans ht, hk⟩
    · have hfull' : Config.bufCap ≤ (inputOf p s).length := by cases p <;> exact hfull
      exact .inr ⟨hnf, ⟨p, value, rest, h, hfull'⟩, rest, e.trans ht⟩

/-- The four ports by register number, each with its buffer (30 R71). -/
theorem portOf_cases (p : InputBuffer) (s : State) :
    (portOf p = 0x03#8 ∧ inputOf p s = s.key) ∨ (portOf p = 0x04#8 ∧ inputOf p s = s.msg) ∨
      (portOf p = 0x05#8 ∧ inputOf p s = s.sfx) ∨ (portOf p = 0x06#8 ∧ inputOf p s = s.dhex) := by
  cases p with
  | key => exact .inl ⟨rfl, rfl⟩
  | msg => exact .inr (.inl ⟨rfl, rfl⟩)
  | sfx => exact .inr (.inr (.inl ⟨rfl, rfl⟩))
  | dhex => exact .inr (.inr (.inr ⟨rfl, rfl⟩))

/-- Settles O41, by `step_results`; the overflowing write's state is that of the fatal error entry. -/
theorem resultsLastUntilTheNextIssue : Obligations.ResultsLastUntilTheNextIssue := by
  intro s t hb hp hreset hcmd e
  obtain ⟨u, hu, hk⟩ | ⟨hnf, ⟨p, value, rest, hpend, hfull⟩, rest', hu⟩ := step_results hb hp hreset hcmd
  · obtain rfl : u = t := Host.Outcome.next.inj (hu.symm.trans e)
    exact .inl (by simpa only [results, Prod.mk.injEq] using hk)
  · obtain rfl := Host.Outcome.next.inj (hu.symm.trans e)
    exact .inr ⟨hp.resolve_right hnf, ⟨portOf p, value, rest, inputOf p s, hpend, hfull, portOf_cases p s⟩,
      rfl, rfl, rfl, rfl, rfl, rfl, rfl, rfl, rfl, rfl, rfl⟩

end Sys2Proof.Machine

/-! ## Proofs of the encoding family (30_encoding): decoder and encoder, command issue, registers, digest text -/

namespace Sys2Proof.Machine

/-! ### Encodings (30 R71, R73, R77) -/

/-- The instruction a write to a byte port stands for. -/
def portInstr : InputBuffer → BitVec 64 → Instr
  | .key => .wrKeyPort
  | .msg => .wrMsgPort
  | .sfx => .wrSfxPort
  | .dhex => .wrDhexPort

theorem decodeWrite_portOf (p : InputBuffer) (value : BitVec 64) :
    decodeWrite (portOf p) value = .instr (portInstr p value) := by
  cases p <;> rfl

/-- Every encoding of the encoder decodes, whether or not the value fits its register. -/
theorem decode_encode (i : Instr) : decode (encode i) = .instr i := by
  cases i with
  | checksum | genmac | valmac | attack | srst => decide
  | idle | decode | parse | glue | load | pad | fetch | sched | round | fold | finish | fault => decide
  | wrKeyPort value => exact decodeWrite_portOf .key value
  | wrMsgPort value => exact decodeWrite_portOf .msg value
  | wrSfxPort value => exact decodeWrite_portOf .sfx value
  | wrDhexPort value => exact decodeWrite_portOf .dhex value
  | wrKeylen value => rfl
  | wrOutAddr value => rfl

/-- Settles O1, by one case per row of the opcode table (`decode_encode`). -/
theorem decodeOfEncodeGivesTheInstruction : Obligations.DecodeOfEncodeGivesTheInstruction :=
  fun i _ => decode_encode i

/-- `e` is the encoding of `i`, and `i` is well formed. -/
def IsEncodingOf (e : Encoded) (i : Instr) : Prop := encode i = e ∧ i.wellFormed = true

theorem phaseCode_isEncodingOf (p : Phase) : IsEncodingOf (.phase (phaseCode p)) (phaseInstr p) := by
  cases p <;> exact ⟨rfl, rfl⟩

theorem portOf_isEncodingOf {p : InputBuffer} {value : BitVec 64} (hv : value.toNat < 2 ^ 8) :
    IsEncodingOf (.write (portOf p) value) (portInstr p value) := by
  cases p <;> exact ⟨rfl, decide_eq_true hv⟩

theorem writeWidth_portOf (p : InputBuffer) : writeWidth (portOf p) = 8 := by
  cases p <;> decide

theorem decodeCommand_of_illegal {word : BitVec 32} (h1 : word ≠ wordChecksum) (h2 : word ≠ wordGenmac)
    (h3 : word ≠ wordValmac) (h4 : word ≠ wordAttack) (h5 : word ≠ wordSrst) :
    decodeCommand word = .reject (.illegalCommand word) := by
  simp only [decodeCommand, h1, h2, h3, h4, h5, if_false]

/-- Everything the command decoder can answer: the command whose word it is, or the reject. -/
theorem decodeCommand_cases (word : BitVec 32) :
    (∃ i, decodeCommand word = .instr i ∧ IsEncodingOf (.write regCmd (word.setWidth 64)) i) ∨
      decodeCommand word = .reject (.illegalCommand word) := by
  by_cases h1 : word = wordChecksum
  · subst h1; exact .inl ⟨.checksum, rfl, rfl, rfl⟩
  by_cases h2 : word = wordGenmac
  · subst h2; exact .inl ⟨.genmac, rfl, rfl, rfl⟩
  by_cases h3 : word = wordValmac
  · subst h3; exact .inl ⟨.valmac, rfl, rfl, rfl⟩
  by_cases h4 : word = wordAttack
  · subst h4; exact .inl ⟨.attack, rfl, rfl, rfl⟩
  by_cases h5 : word = wordSrst
  · subst h5; exact .inl ⟨.srst, rfl, rfl, rfl⟩
  · exact .inr (decodeCommand_of_illegal h1 h2 h3 h4 h5)

/-- Everything the write decoder can answer, by register number. -/
theorem decodeWrite_cases (reg : BitVec 8) (value : BitVec 64) :
    (reg = regCmd ∧ decodeWrite reg value = decodeCommand (value.setWidth 32)) ∨
    (∃ p, reg = portOf p ∧ decodeWrite reg value = .instr (portInstr p value)) ∨
    (reg = regKeylen ∧ decodeWrite reg value = .instr (.wrKeylen value)) ∨
    (reg = regOutAddr ∧ decodeWrite reg value = .instr (.wrOutAddr value)) ∨
    (∃ r, decodeWrite reg value = .reject r) := by
  unfold decodeWrite
  split_ifs with h0 h1 h2 h3 h4 h5 h6 h7
  · exact .inl ⟨h0, rfl⟩
  · exact .inr (.inr (.inl ⟨h1, rfl⟩))
  · exact .inr (.inl ⟨.key, h2, rfl⟩)
  · exact .inr (.inl ⟨.msg, h3, rfl⟩)
  · exact .inr (.inl ⟨.sfx, h4, rfl⟩)
  · exact .inr (.inl ⟨.dhex, h5, rfl⟩)
  · exact .inr (.inr (.inr (.inl ⟨h6, rfl⟩)))
  · exact .inr (.inr (.inr (.inr ⟨_, rfl⟩)))
  · exact .inr (.inr (.inr (.inr ⟨_, rfl⟩)))

/-- A value that fits the command register is its low 32 bits. -/
theorem setWidth_low_word {value : BitVec 64} (hv : value.toNat < 2 ^ 32) : (value.setWidth 32).setWidth 64 = value := by
  apply BitVec.eq_of_toNat_eq
  simp only [BitVec.toNat_setWidth]
  omega

theorem isEncodingOf_of_decodeWrite {reg : BitVec 8} {value : BitVec 64} {i : Instr}
    (hfits : (Encoded.write reg value).fits = true) (h : decodeWrite reg value = .instr i) :
    IsEncodingOf (.write reg value) i := by
  have hv := (fits_write_iff reg value).1 hfits
  obtain ⟨rfl, e⟩ | ⟨p, rfl, e⟩ | ⟨rfl, e⟩ | ⟨rfl, e⟩ | ⟨r, e⟩ := decodeWrite_cases reg value <;> rw [e] at h
  · obtain ⟨j, hj, henc⟩ | hr := decodeCommand_cases (value.setWidth 32)
    · obtain rfl : j = i := Decoded.instr.inj (hj.symm.trans h)
      rwa [setWidth_low_word hv] at henc
    · rw [hr] at h; cases h
  · cases h
    exact portOf_isEncodingOf (by rwa [writeWidth_portOf] at hv)
  · cases h; exact ⟨rfl, rfl⟩
  · cases h; exact ⟨rfl, rfl⟩
  · cases h

theorem isEncodingOf_of_decodePhase {code : BitVec 4} {i : Instr} (h : decodePhase code = .instr i) :
    IsEncodingOf (.phase code) i := by
  obtain ⟨p, rfl, e⟩ | e := decodePhase_cases code <;> rw [e] at h <;> cases h
  exact phaseCode_isEncodingOf p

/-- Settles O2: a phase code by `isEncodingOf_of_decodePhase`, a write by `isEncodingOf_of_decodeWrite`. -/
theorem encodeOfDecodedGivesTheEncoding : Obligations.EncodeOfDecodedGivesTheEncoding := by
  intro e i hfits h
  cases e with
  | phase code => exact isEncodingOf_of_decodePhase h
  | write reg value => exact isEncodingOf_of_decodeWrite hfits h

/-- Settles O3, by evaluating the decoder on the words. -/
theorem specWordsDecode : Obligations.SpecWordsDecode := by
  unfold Obligations.SpecWordsDecode
  decide

/-! ### Command issue (30 R74, 46 R189) -/

/-- A word written to `CMD` arrives whole. -/
theorem setWidth_command_word (word : BitVec 32) : (word.setWidth 64).setWidth 32 = word := by simp

theorem writeCommand_idle {word : BitVec 32} {s : State} (hb : s.busy = false) (hp : s.phase = .idle)
    (hw : word ≠ wordSrst) : writeCommand word s = issueCommand word s := by
  simp [writeCommand, hb, hp, hw]

theorem execDecode_of_illegal {s : State} (h1 : s.cmdreg ≠ wordChecksum) (h2 : s.cmdreg ≠ wordGenmac)
    (h3 : s.cmdreg ≠ wordValmac) (h4 : s.cmdreg ≠ wordAttack) :
    execDecode s = .next (raiseError .usageError s) := by
  obtain ⟨h, -⟩ | ⟨h, -⟩ | ⟨h, -⟩ | ⟨h, -⟩ | ⟨-, -, -, -, e⟩ := execDecode_cases s
  · exact absurd h h1
  · exact absurd h h2
  · exact absurd h h3
  · exact absurd h h4
  · exact e

/-- With `BUSY = 0` in `IDLE` a step on a write to `CMD`, legal or not, issues the word unless it is `SRST`. -/
theorem step_of_command {s : State} {word : BitVec 32} {rest : List HostAction} (hb : s.busy = false)
    (hp : s.phase = .idle) (hw : word ≠ wordSrst) (h : s.pending = .write regCmd (word.setWidth 64) :: rest) :
    step s = .next (issueCommand word { s with pending := rest }) := by
  rw [step_of_write hb h, runEncoded_cmd, setWidth_command_word,
    writeCommand_idle (s := { s with pending := rest }) hb hp hw]

/-- Settles O4: the word falls through every case of the command decoder and of DECODE, and its write issues like any
other (`step_of_command`). -/
theorem illegalCommandWordIsIssuedThenUsageError : Obligations.IllegalCommandWordIsIssuedThenUsageError := by
  intro word h1 h2 h3 h4 h5
  refine ⟨?_, fun s rest hb hp h => step_of_command hb hp h5 h, ?_⟩
  · calc decodeWrite regCmd (word.setWidth 64) = decodeCommand ((word.setWidth 64).setWidth 32) := rfl
      _ = .reject (.illegalCommand word) := by rw [setWidth_command_word, decodeCommand_of_illegal h1 h2 h3 h4 h5]
  · rintro s rfl
    exact execDecode_of_illegal h1 h2 h3 h4

/-- Settles O20: each of the four commands is the write of its word, which is not `SRST` (`writeCommand_idle`). -/
theorem legalCommandsIssue : Obligations.LegalCommandsIssue := by
  intro s hb hp i word h
  obtain ⟨he, hw⟩ : exec i s = .next (writeCommand word s) ∧ word ≠ wordSrst := by
    obtain ⟨rfl, rfl⟩ | ⟨rfl, rfl⟩ | ⟨rfl, rfl⟩ | ⟨rfl, rfl⟩ := h <;> exact ⟨rfl, by decide⟩
  rw [he, writeCommand_idle hb hp hw]
  rfl

/-- Settles O24: both phases answer the state they are given. -/
theorem idleAndFaultWait : Obligations.IdleAndFaultWait :=
  fun s => ⟨exec_phaseInstr_of_waiting (.inl rfl) s, exec_phaseInstr_of_waiting (.inr rfl) s⟩

/-! ### Port writes, and the writes that are ignored (46 R186; 30 R85) -/

/-- With `BUSY = 0` in `IDLE` a write to a port with room appends one byte to the port's buffer. -/
theorem writePort_idle {p : InputBuffer} {s : State} (hb : s.busy = false) (hp : s.phase = .idle)
    (hroom : (inputOf p s).length < Config.bufCap) (value : BitVec 64) :
    writePort p value s = setInput p (inputOf p s ++ [value.setWidth 8]) s := by
  obtain ⟨hbusy, -⟩ | ⟨-, hfault, -⟩ | ⟨-, -, -, e⟩ | ⟨-, -, hfull, -⟩ := writePort_cases p value s
  · rw [hb] at hbusy; cases hbusy
  · rw [hp] at hfault; cases hfault
  · exact e
  · omega

/-- Settles O21: each of the four instructions is the write to its port (`writePort_idle`). -/
theorem portWriteAppendsOneByte : Obligations.PortWriteAppendsOneByte :=
  fun _ value hb hp =>
    ⟨fun h => congrArg _ (writePort_idle (p := .key) hb hp h value),
      fun h => congrArg _ (writePort_idle (p := .msg) hb hp h value),
      fun h => congrArg _ (writePort_idle (p := .sfx) hb hp h value),
      fun h => congrArg _ (writePort_idle (p := .dhex) hb hp h value)⟩

/-- Every number but those of the registers a write has an effect on: read-only or reserved (30 R71, R85). -/
abbrev IgnoresWrites (reg : BitVec 8) : Prop := reg = 0x01#8 ∨ (0x07 ≤ reg.toNat ∧ reg.toNat ≠ 0x0C)

theorem IgnoresWrites.ne {reg : BitVec 8} (h : IgnoresWrites reg) :
    reg ≠ regCmd ∧ (∀ p, reg ≠ portOf p) ∧ reg ≠ regKeylen ∧ reg ≠ regOutAddr := by
  refine ⟨?_, fun p => ?_, ?_, ?_⟩
  · rintro rfl; exact absurd h (by decide)
  · rintro rfl; cases p <;> exact absurd h (by decide)
  · rintro rfl; exact absurd h (by decide)
  · rintro rfl; exact absurd h (by decide)

theorem runEncoded_write_ignored {reg : BitVec 8} {s : State} (hreg : IgnoresWrites reg) (hb : s.busy = false)
    (value : BitVec 64) : runEncoded (.write reg value) s = .next s := by
  obtain ⟨hcmd, hport, hkeylen, haddr⟩ := hreg.ne
  obtain e | ⟨h, -⟩ | ⟨h, -⟩ | ⟨p, h, -⟩ | ⟨p, h, -⟩ | ⟨h, -⟩ | ⟨h, -⟩ := runEncoded_write_cases reg value s hb
  · exact e
  · exact absurd h hcmd
  · exact absurd h hcmd
  · exact absurd h (hport p)
  · exact absurd h (hport p)
  · exact absurd h hkeylen
  · exact absurd h haddr

/-- Settles O16: such a number is none of the registers a write has an effect on (`runEncoded_write_ignored`). -/
theorem readOnlyAndReservedWritesAreIgnored : Obligations.ReadOnlyAndReservedWritesAreIgnored :=
  fun s _ value rest hb hp hreg =>
    (step_of_write hb hp).trans (runEncoded_write_ignored (s := { s with pending := rest }) hreg hb value)

/-! ### The status word (30 R75, R76) -/

/-- The nine fields of a word put together as `statusWord` is, each at its place. -/
theorem extractLsb'_statusLayout (zero : BitVec 18) (ovalid dvalid : BitVec 1) (mode err : BitVec 4)
    (fatal matched done busy : BitVec 1) :
    let word := zero ++ ovalid ++ dvalid ++ mode ++ err ++ fatal ++ matched ++ done ++ busy
    word.extractLsb' 0 1 = busy ∧ word.extractLsb' 1 1 = done ∧ word.extractLsb' 2 1 = matched ∧
    word.extractLsb' 3 1 = fatal ∧ word.extractLsb' 4 4 = err ∧ word.extractLsb' 8 4 = mode ∧
    word.extractLsb' 12 1 = dvalid ∧ word.extractLsb' 13 1 = ovalid ∧ word.extractLsb' 14 18 = zero := by
  simp (disch := decide) only [BitVec.extractLsb'_append_eq_of_le, BitVec.extractLsb'_append_eq_of_add_le,
    Nat.reduceSub, BitVec.extractLsb'_eq_self, and_self]

theorem isFatal_iff (e : ErrorCode) : isFatal e = true ↔ e = .allocationFailure ∨ e = .internalInvariantViolation := by
  cases e <;> decide

/-- The five outcomes of 30 R75: a command runs, a fatal error, a result, another error, nothing. -/
def outcomes (s : State) : List Bool :=
  [s.busy, s.fatal, s.done, decide (s.err ≠ .none) && !s.fatal,
    !s.busy && !s.fatal && !s.done && decide (s.err = .none)]

/-- Under the invariant each of the first four outcomes excludes the others, and the fifth is what is left. -/
theorem State.Inv.one_outcome {s : State} (h : s.Inv) : List.count true (outcomes s) = 1 := by
  unfold outcomes
  cases hb : s.busy with
  | true =>
    obtain ⟨-, hf, he, hd, -⟩ := h.quiet (h.busy_phase ▸ hb)
    simp [hf, he, hd]
  | false =>
    cases hd : s.done with
    | true =>
      have he := (h.done_clear hd).2
      have hf : s.fatal = false := by rw [h.fatal_code, he]; rfl
      simp [he, hf]
    | false =>
      cases hf : s.fatal with
      | true => simp
      | false => by_cases he : s.err = .none <;> simp [he]

/-- Settles O9: the layout by `extractLsb'_statusLayout`, the codes by definition, the outcomes by
`State.Inv.one_outcome`. -/
theorem statusWordLayoutAndOutcome : Obligations.StatusWordLayoutAndOutcome := by
  intro s
  obtain ⟨hbusy, hdone, hmatch, hfatal, herr, hmode, hdvalid, hovalid, hzero⟩ :=
    extractLsb'_statusLayout 0#18 (.ofBool s.ovalid) (.ofBool s.dvalid) (modeBits s.mode) (errorBits s.err)
      (.ofBool s.fatal) (.ofBool s.matched) (.ofBool s.done) (.ofBool s.busy)
  refine ⟨hbusy, hdone, hmatch, hfatal, herr, hmode, hdvalid, hovalid, hzero, rfl, rfl, rfl, rfl, rfl, rfl, rfl, rfl,
    rfl, rfl, fun h => ⟨?_, ?_, h.one_outcome⟩⟩
  · rw [h.fatal_phase, decide_eq_true_iff]
  · rw [h.fatal_code, isFatal_iff]

/-! ### Digest text (30 R80, R81; 44 R155, R157) -/

theorem hexValue_lt {c : Byte} {n : Nat} (h : hexValue c = some n) : n < 16 := by
  unfold hexValue at h
  split_ifs at h <;> cases h <;> omega

theorem hexValue_getD_lt (c : Byte) : (hexValue c).getD 0 < 16 := by
  cases h : hexValue c with
  | none => decide
  | some n => exact hexValue_lt h

theorem hexNumber_append_singleton (s : List Byte) (c : Byte) :
    hexNumber (s ++ [c]) = hexNumber s * 16 + (hexValue c).getD 0 := by
  simp only [hexNumber, List.foldl_append, List.foldl_cons, List.foldl_nil]

theorem hexNumber_lt (s : List Byte) : hexNumber s < 16 ^ s.length := by
  induction s using List.reverseRecOn with
  | nil => decide
  | append_singleton s c ih =>
    have hc := hexValue_getD_lt c
    rw [hexNumber_append_singleton, List.length_append, List.length_singleton, pow_succ]
    omega

/-- The number a group spells is the sum of its digits by place, the first character most significant. -/
theorem hexNumber_ofFn {n : Nat} (f : Fin n → Byte) :
    hexNumber (List.ofFn f) = ∑ j : Fin n, (hexValue (f j)).getD 0 * 16 ^ (n - 1 - j.val) := by
  induction n with
  | zero => rfl
  | succ n ih =>
    rw [List.ofFn_succ', List.concat_eq_append, hexNumber_append_singleton, ih, Finset.sum_mul,
      Fin.sum_univ_castSucc]
    congr 1
    · refine Finset.sum_congr rfl fun j _ => ?_
      have hj : n + 1 - 1 - j.castSucc.val = n - 1 - j.val + 1 := by
        have := j.isLt
        simp only [Fin.val_castSucc]
        omega
      rw [hj, pow_succ, mul_assoc]
    · simp

/-- Group `i` of 64 characters, character by character. -/
theorem digestGroup_eq_ofFn {text : Buffer} (hlen : text.length = 64) (i : Fin 8) :
    (text.drop (8 * i.val)).take 8 = List.ofFn fun j : Fin 8 => text.getD (8 * i.val + j.val) 0#8 := by
  have hi := i.isLt
  apply List.ext_getElem
  · simp; omega
  · intro j hj _
    have hj8 : j < 8 := by simp at hj; omega
    rw [List.getElem_take, List.getElem_drop, List.getElem_ofFn, List.getD_eq_getElem _ _ (by omega)]

/-- Word `i` as `ParseDigest` forms it from a text of 64 characters. -/
def digestWord (text : Buffer) (i : Fin 8) : Nat :=
  ∑ j : Fin 8, (hexValue (text.getD (8 * i.val + j.val) 0#8)).getD 0 * 16 ^ (7 - j.val)

theorem digestGroup_toNat {text : Buffer} (hlen : text.length = 64) (i : Fin 8) :
    (BitVec.ofNat 32 (hexNumber ((text.drop (8 * i.val)).take 8))).toNat = digestWord text i := by
  have hlt : hexNumber ((text.drop (8 * i.val)).take 8) < 2 ^ 32 :=
    calc hexNumber ((text.drop (8 * i.val)).take 8)
        < 16 ^ ((text.drop (8 * i.val)).take 8).length := hexNumber_lt _
      _ ≤ 16 ^ 8 := Nat.pow_le_pow_right (by decide) (List.length_take_le _ _)
      _ = 2 ^ 32 := by decide
  rw [BitVec.toNat_ofNat, Nat.mod_eq_of_lt hlt, digestGroup_eq_ofFn hlen, hexNumber_ofFn]
  rfl

/-- Everything `parseDigest` can answer. -/
theorem parseDigest_cases (text : Buffer) :
    ((text.length ≠ 64 ∨ ∃ c ∈ text, hexValue c = none) ∧ parseDigest text = none) ∨
    ((text.length = 64 ∧ ∀ c ∈ text, hexValue c ≠ none) ∧
      ∃ d : Vector Word 8, parseDigest text = some d ∧ ∀ i : Fin 8, (d[i]).toNat = digestWord text i) := by
  unfold parseDigest
  split_ifs with hlen hhex
  · exact .inl ⟨.inl hlen, rfl⟩
  · have hlen := not_not.1 hlen
    refine .inr ⟨⟨hlen, by simpa [Option.isSome_iff_ne_none] using hhex⟩, _, rfl, fun i => ?_⟩
    rw [Fin.getElem_fin, Vector.getElem_ofFn, digestGroup_toNat hlen]
  · exact .inl ⟨.inr (by simpa using hhex), rfl⟩

/-- Settles O26: the text is malformed or its words are the sums (`parseDigest_cases`); the ranges of `HexValue` are the
branches of its definition. -/
theorem parseDigestReadsEightGroups : Obligations.ParseDigestReadsEightGroups := by
  intro text
  refine ⟨?_, ?_, fun c => ?_⟩
  · obtain ⟨hbad, e⟩ | ⟨⟨hlen, hhex⟩, d, e, -⟩ := parseDigest_cases text
    · exact iff_of_true e hbad
    · refine iff_of_false (by simp [e]) ?_
      rintro (h | ⟨c, hc, h⟩)
      · exact h hlen
      · exact hhex c hc h
  · intro d hd
    obtain ⟨-, e⟩ | ⟨-, d', e, hwords⟩ := parseDigest_cases text
    · rw [hd] at e; cases e
    · obtain rfl := Option.some.inj (hd.symm.trans e)
      exact hwords
  · unfold hexValue
    refine ⟨fun hlo hhi => if_pos ⟨hlo, hhi⟩, fun hlo hhi => ?_, fun hlo hhi => ?_, fun h1 h2 h3 => ?_⟩
    · rw [if_neg (by omega), if_pos ⟨hlo, hhi⟩]
    · rw [if_neg (by omega), if_neg (by omega), if_pos ⟨hlo, hhi⟩]
    · rw [if_neg h1, if_neg h2, if_neg h3]

/-- The digit character `k` of a digest's text shows: 4 bits of word `k div 8`, the highest first (30 R80). -/
def digestDigit (d : Vector Word 8) (k : Nat) : Nat :=
  (d.toList.getD (k / 8) 0#32).toNat / 2 ^ (28 - 4 * (k % 8)) % 16

theorem digestChar_eq (d : Vector Word 8) (k : Nat) : digestChar d k = hexChar (digestDigit d k) := rfl

theorem digestDigit_lt (d : Vector Word 8) (k : Nat) : digestDigit d k < 16 := Nat.mod_lt _ (by decide)

theorem hexChar_toNat {n : Nat} (h : n < 16) : (hexChar n).toNat = if n ≤ 9 then 0x30 + n else 0x57 + n := by
  rw [hexChar, BitVec.toNat_ofNat, Nat.mod_eq_of_lt]
  split <;> omega

theorem hexValue_hexChar {n : Nat} (h : n < 16) : hexValue (hexChar n) = some n := by
  revert n
  decide

theorem renderDigest_length (d : Vector Word 8) : (renderDigest d).length = 64 := by simp [renderDigest]

theorem renderDigest_getElem? (d : Vector Word 8) {k : Nat} (hk : k < 64) :
    (renderDigest d)[k]? = some (digestChar d k) := by
  simp [renderDigest, hk]

theorem renderDigest_getD (d : Vector Word 8) {k : Nat} (hk : k < 64) :
    (renderDigest d).getD k 0#8 = digestChar d k := by
  rw [List.getD_eq_getElem?_getD, renderDigest_getElem? d hk, Option.getD_some]

theorem hexValue_of_mem_renderDigest {d : Vector Word 8} {c : Byte} (h : c ∈ renderDigest d) : hexValue c ≠ none := by
  obtain ⟨k, -, rfl⟩ := List.mem_map.1 h
  simp [digestChar_eq, hexValue_hexChar (digestDigit_lt d k)]

theorem vector_toList_getD {n : Nat} (d : Vector Word n) (i : Fin n) : d.toList.getD i.val 0#32 = d[i] := by
  simp

/-- The digit as 4 bits of its word. -/
theorem digestDigit_eq_extractLsb' (d : Vector Word 8) (k : Fin 64) :
    digestDigit d k.val = ((d[k.val / 8]).extractLsb' (28 - 4 * (k.val % 8)) 4).toNat := by
  rw [digestDigit, vector_toList_getD d ⟨k.val / 8, by omega⟩, BitVec.extractLsb'_toNat, Nat.shiftRight_eq_div_pow]
  rfl

/-- The eight hexadecimal digits of a word, by place, add up to it. -/
theorem sum_hexDigits {x : Nat} (hx : x < 2 ^ 32) : ∑ j : Fin 8, x / 2 ^ (28 - 4 * j.val) % 16 * 16 ^ (7 - j.val) = x :=
  calc ∑ j : Fin 8, x / 2 ^ (28 - 4 * j.val) % 16 * 16 ^ (7 - j.val)
      = x / 2 ^ 28 % 16 * 16 ^ 7 + x / 2 ^ 24 % 16 * 16 ^ 6 + x / 2 ^ 20 % 16 * 16 ^ 5 + x / 2 ^ 16 % 16 * 16 ^ 4 +
        x / 2 ^ 12 % 16 * 16 ^ 3 + x / 2 ^ 8 % 16 * 16 ^ 2 + x / 2 ^ 4 % 16 * 16 ^ 1 + x / 2 ^ 0 % 16 * 16 ^ 0 :=
        Fin.sum_univ_eight _
    _ = x := by omega

theorem digestWord_renderDigest (d : Vector Word 8) (i : Fin 8) : digestWord (renderDigest d) i = (d[i]).toNat := by
  have hi := i.isLt
  have hdigit (j : Fin 8) :
      (hexValue ((renderDigest d).getD (8 * i.val + j.val) 0#8)).getD 0 = (d[i]).toNat / 2 ^ (28 - 4 * j.val) % 16 := by
    have hj := j.isLt
    have hword : (8 * i.val + j.val) / 8 = i.val := by omega
    have hplace : (8 * i.val + j.val) % 8 = j.val := by omega
    rw [renderDigest_getD d (by omega), digestChar_eq, hexValue_hexChar (digestDigit_lt _ _), Option.getD_some,
      digestDigit, hword, hplace, vector_toList_getD]
  simp only [digestWord, hdigit]
  exact sum_hexDigits (d[i]).isLt

theorem parseDigest_renderDigest (d : Vector Word 8) : parseDigest (renderDigest d) = some d := by
  obtain ⟨hlen | ⟨c, hc, h⟩, -⟩ | ⟨-, d', e, hwords⟩ := parseDigest_cases (renderDigest d)
  · exact absurd (renderDigest_length d) hlen
  · exact absurd h (hexValue_of_mem_renderDigest hc)
  · rw [e]
    congr 1
    apply Vector.ext
    intro i hi
    exact BitVec.eq_of_toNat_eq ((hwords ⟨i, hi⟩).trans (digestWord_renderDigest d ⟨i, hi⟩))

/-- Settles O52: the characters by `hexChar_toNat`, the parse by `parseDigest_renderDigest`. -/
theorem renderedTextAndItsParse : Obligations.RenderedTextAndItsParse := by
  refine fun d => ⟨renderDigest_length d, ?_, parseDigest_renderDigest d⟩
  intro k digit hdigit
  rw [← digestDigit_eq_extractLsb'] at hdigit
  have hlt : digit < 16 := hdigit ▸ digestDigit_lt d k.val
  refine ⟨hexChar digit, ?_, hlt, fun h => ?_, fun h => ?_⟩
  · rw [renderDigest_getElem? d k.isLt, digestChar_eq, hdigit]
  · rw [hexChar_toNat hlt, if_pos h]
  · rw [hexChar_toNat hlt, if_neg (by omega)]
    omega

/-! ### What each register reads as (30 R71, R85; 46 R194, R195) -/

theorem hostRead_h (s : State) (i : Fin 8) : hostRead (BitVec.ofNat 8 (0x10 + i.val)) s = (s.h[i]).setWidth 64 := by
  rw [← vector_toList_getD s.h i]
  fin_cases i <;> rfl

/-- From `0x19` up only `DIGEST_HEX` is mapped. -/
theorem hostRead_of_ge {reg : BitVec 8} (hlo : 0x19 ≤ reg.toNat) (s : State) :
    hostRead reg s = if 0x40 ≤ reg.toNat ∧ reg.toNat < 0x80 then (digestChar s.h (reg.toNat - 0x40)).setWidth 64
      else 0#64 := by
  have hne {c : BitVec 8} (hc : c.toNat < 0x19) : reg ≠ c := by
    rintro rfl
    omega
  have hnh : ¬reg.toNat < regH0.toNat + 8 := Nat.not_lt.2 (Nat.le_of_succ_le hlo)
  simp (disch := decide) only [hostRead, hne, hnh, and_false, if_false]
  rfl

theorem hostRead_digestHex (s : State) (k : Fin 64) :
    hostRead (BitVec.ofNat 8 (0x40 + k.val)) s = ((renderDigest s.h).getD k.val 0#8).setWidth 64 := by
  have hreg : (BitVec.ofNat 8 (0x40 + k.val)).toNat = 0x40 + k.val := by
    rw [BitVec.toNat_ofNat]
    omega
  rw [hostRead_of_ge (by omega), hreg, if_pos (by omega), Nat.add_sub_cancel_left, renderDigest_getD s.h k.isLt]

theorem hostRead_of_reserved {reg : BitVec 8} (h : (0x19 ≤ reg.toNat ∧ reg.toNat ≤ 0x3F) ∨ 0x80 ≤ reg.toNat)
    (s : State) : hostRead reg s = 0#64 := by
  rw [hostRead_of_ge (by omega), if_neg (by omega)]

theorem hostRead_portOf (p : InputBuffer) (s : State) : hostRead (portOf p) s = 0#64 := by
  cases p <;> rfl

theorem eq_portOf_of_range {reg : BitVec 8} (hlo : 0x03 ≤ reg.toNat) (hhi : reg.toNat ≤ 0x06) : ∃ p, reg = portOf p := by
  have h : reg.toNat = 3 ∨ reg.toNat = 4 ∨ reg.toNat = 5 ∨ reg.toNat = 6 := by omega
  obtain h | h | h | h := h
  · exact ⟨.key, BitVec.eq_of_toNat_eq h⟩
  · exact ⟨.msg, BitVec.eq_of_toNat_eq h⟩
  · exact ⟨.sfx, BitVec.eq_of_toNat_eq h⟩
  · exact ⟨.dhex, BitVec.eq_of_toNat_eq h⟩

theorem hostRead_outData (s : State) : hostRead regOutData s = (s.out.getD s.outAddr.toNat 0x00#8).setWidth 64 := rfl

/-- Settles O15: a single number by evaluating the register map there, each range by its lemma above. -/
theorem everyRegisterReadsAsMapped : Obligations.EveryRegisterReadsAsMapped := by
  refine fun s => ⟨rfl, rfl, rfl, fun reg hlo hhi => ?_, rfl, rfl, rfl, rfl, rfl, rfl, fun hlt => ?_, fun hge => ?_, rfl,
    rfl, hostRead_h s, rfl, hostRead_digestHex s, fun reg h => hostRead_of_reserved h s⟩
  · obtain ⟨p, rfl⟩ := eq_portOf_of_range hlo hhi
    exact hostRead_portOf p s
  · exact (hostRead_outData s).trans (by rw [List.getD_eq_getElem _ _ hlt])
  · exact (hostRead_outData s).trans (by rw [List.getD_eq_default _ _ hge]; rfl)

end Sys2Proof.Machine

/-! ## Proofs of the byte buffer family (40_bytebuffer): a port write to a full buffer, and LOAD -/

namespace Sys2Proof.Machine

/-! ### A port write that does not fit (40 R103; 46 R186; 60 R217) -/

/-- With `BUSY = 0` in `IDLE` a write to a full port takes the fatal error entry; the byte is not stored. -/
theorem writePort_idle_full {p : InputBuffer} {s : State} (hb : s.busy = false) (hp : s.phase = .idle)
    (hfull : (inputOf p s).length = Config.bufCap) (value : BitVec 64) :
    writePort p value s = enterFatal .allocationFailure s := by
  obtain ⟨hbusy, -⟩ | ⟨-, hfault, -⟩ | ⟨-, -, hroom, -⟩ | ⟨-, -, -, e⟩ := writePort_cases p value s
  · rw [hb] at hbusy; cases hbusy
  · rw [hp] at hfault; cases hfault
  · omega
  · exact e

/-- Settles O22: each of the four instructions is the write to its port (`writePort_idle_full`), and the state named is
that of the fatal error entry. -/
theorem portWriteToFullBufferIsFatal : Obligations.PortWriteToFullBufferIsFatal := by
  rintro s value hb hp _ rfl
  exact ⟨fun h => congrArg _ (writePort_idle_full (p := .key) hb hp h value),
    fun h => congrArg _ (writePort_idle_full (p := .msg) hb hp h value),
    fun h => congrArg _ (writePort_idle_full (p := .sfx) hb hp h value),
    fun h => congrArg _ (writePort_idle_full (p := .dhex) hb hp h value)⟩

/-! ### LOAD, mode by mode (43 R141; 40 R101) -/

theorem execLoad_of_checksum {s : State} (h : s.mode = .checksum) :
    execLoad s = .next { s with work := s.msg, prior := 0, h := initialValue, phase := .pad } := by
  simp only [execLoad, h]

theorem execLoad_of_attack {s : State} (h : s.mode = .attack) :
    execLoad s = .next { s with work := s.sfx, prior := 64 * s.pbc, h := s.din, phase := .pad } := by
  simp only [execLoad, h]

/-- In the two MAC modes LOAD puts `KEY` before `MSG`, or takes the fatal error entry with `MSG` copied to `WORK`. -/
theorem execLoad_of_mac {s : State} (h : s.mode = .genmac ∨ s.mode = .valmac) :
    execLoad s = if s.msg.length + s.key.length ≤ Config.bufCap then
        .next { s with work := s.key ++ s.msg, prior := 0, h := initialValue, phase := .pad }
      else .next (enterFatal .allocationFailure { s with work := s.msg }) := by
  obtain ⟨hm, -⟩ | ⟨-, hroom, e⟩ | ⟨-, hfull, e⟩ | ⟨hm, -⟩ | ⟨hm, -⟩ := execLoad_cases s
  · simp [hm] at h
  · rw [e, if_pos hroom]
  · rw [e, if_neg hfull.not_ge]
  · simp [hm] at h
  · simp [hm] at h

/-- Settles O29, by the equation of LOAD for each mode; where the `prepend` fails, the state is that of the fatal error
entry. -/
theorem loadSetsUpTheHash : Obligations.LoadSetsUpTheHash := by
  refine ⟨decode_phaseCode .load, fun s => ⟨execLoad_of_checksum, fun hm hroom => ?_, fun hm hfull => ?_,
    execLoad_of_attack⟩⟩
  · exact (execLoad_of_mac hm).trans (if_pos hroom)
  · exact ⟨_, (execLoad_of_mac hm).trans (if_neg hfull.not_ge), rfl⟩

end Sys2Proof.Machine

/-! ## Proofs of the padder family (41_padder): the zero count, the padding byte by byte, its length, and PAD -/

namespace Sys2Proof.Machine

/-! ### The zero count (41 R111) -/

theorem zeroCount_le (length : Nat) : zeroCount (length % 64) ≤ 63 := (zeroCount_mod _ (Nat.mod_lt _ (by decide))).2

/-- After the marker and the zeros exactly 8 bytes of the block remain. -/
theorem length_add_zeroCount_mod (length : Nat) : (length + 1 + zeroCount (length % 64)) % 64 = 56 := by
  have := (zeroCount_mod (length % 64) (Nat.mod_lt _ (by decide))).1
  omega

/-- Two counts that leave 8 bytes are congruent modulo 64, and `zeroCount` is below 64. -/
theorem mod_ne_of_lt_zeroCount {length z : Nat} (h : z < zeroCount (length % 64)) : (length + 1 + z) % 64 ≠ 56 := by
  have hmod := length_add_zeroCount_mod length
  have hle := zeroCount_le length
  omega

/-- Settles O48: the two cases by definition, the rest by `length_add_zeroCount_mod` and `mod_ne_of_lt_zeroCount`. -/
theorem zeroCountIsTheLeast : Obligations.ZeroCountIsTheLeast := fun length =>
  ⟨fun h => if_pos h, fun h => if_neg (Nat.not_le.2 h), length_add_zeroCount_mod length, zeroCount_le length,
    fun _ h => mod_ne_of_lt_zeroCount h⟩

/-! ### The padding byte by byte (41 R110; 20 R52) -/

theorem padBytes_zeros {base k : Nat} (total : Nat) (h1 : 1 ≤ k) (hk : k ≤ zeroCount (base % 64)) :
    (padBytes base total)[k]? = some 0x00#8 := by
  obtain ⟨j, rfl⟩ := Nat.exists_eq_add_of_le' h1
  have hj : j < (List.replicate (zeroCount (base % 64)) (0x00#8 : Byte)).length := by
    rw [List.length_replicate]
    exact hk
  rw [padBytes, List.getElem?_cons_succ, List.getElem?_append_left hj, List.getElem?_replicate_of_lt hk]

/-- Past the marker and the zeros stands the length field. -/
theorem padBytes_lengthField (base total c : Nat) :
    (padBytes base total)[1 + zeroCount (base % 64) + c]? = (be64Bytes (8 * total))[c]? := by
  rw [padBytes, Nat.add_assoc, Nat.add_comm 1, List.getElem?_cons_succ,
    List.getElem?_append_right (by rw [List.length_replicate]; exact Nat.le_add_right _ _), List.length_replicate,
    Nat.add_sub_cancel_left]

/-- Byte `c` of the length field is bits `8*(7-c)` and up, cut to 8. -/
theorem be64Bytes_getElem? {v : Nat} (h : v < 2 ^ 64) (c : Fin 8) :
    (be64Bytes v)[c.val]? = some (BitVec.ofNat 8 (v / 2 ^ (8 * (7 - c.val)))) := by
  rw [be64Bytes, if_pos h]
  fin_cases c <;> simp [lengthFieldBytes]

/-- Settles O49: the ranges of zeros and of the length field by their lemmas above. -/
theorem paddingBytesAndLengthField : Obligations.PaddingBytesAndLengthField := fun base total h =>
  ⟨padBytes_length base total, rfl, fun _ h1 hk => padBytes_zeros total h1 hk, fun c =>
    ⟨_, (padBytes_lengthField base total c).trans (be64Bytes_getElem? h c), BitVec.toNat_ofNat _ _⟩⟩

/-! ### The padded length (41 R114) -/

/-- A multiple of 64 from `L + 9` to `L + 9 + 63`: there is only one. -/
theorem padded_length_eq_ceil (message : Buffer) (prior : Nat) :
    (padded message prior).length = 64 * ((message.length + 9 + 63) / 64) := by
  have hlen := padded_length message prior
  have hblocks := padded_length_eq_blocks message prior
  have hzeros := zeroCount_le message.length
  omega

theorem padded_blocks (message : Buffer) (prior : Nat) :
    (padded message prior).length / 64 = (message.length + 9 + 63) / 64 := by
  rw [padded_length_eq_ceil, Nat.mul_div_cancel_left _ (by decide)]

theorem padded_blocks_pos (message : Buffer) (prior : Nat) : 1 ≤ (padded message prior).length / 64 := by
  rw [padded_blocks]
  omega

theorem padded_length_le_of_multiple {message : Buffer} {n : Nat} (prior : Nat) (hn : n % 64 = 0)
    (hle : message.length + 9 ≤ n) : (padded message prior).length ≤ n := by
  rw [padded_length_eq_ceil]
  omega

/-- Settles O50, by `padded_length` and `padded_length_eq_ceil`. -/
theorem paddedLengthIsTheLeastMultiple : Obligations.PaddedLengthIsTheLeastMultiple := by
  intro message prior
  have hceil := padded_length_eq_ceil message prior
  refine ⟨padded_length message prior, hceil, ?_, ?_, fun _ hn hle => padded_length_le_of_multiple prior hn hle,
    padded_blocks message prior, padded_blocks_pos message prior⟩
  · rw [hceil, Nat.mul_mod_right]
  · rw [padded_length]
    exact Nat.le_add_right _ _

/-! ### PAD (41 R112, R113) -/

/-- PAD as one equation: the length check, then the room for the padding; the invariant check never fails, so it has no
branch here. -/
theorem execPad_eq (s : State) :
    execPad s = if lengthLimit ≤ s.work.length + s.prior then .next (raiseError .lengthOverflow s)
      else if (padded s.work s.prior).length ≤ Config.bufCap then .next { s with
        work := padded s.work s.prior, nblk := (padded s.work s.prior).length / 64, blkidx := 0, phase := .fetch }
      else .next (raiseError .allocationFailure s) := by
  obtain ⟨hlim, e⟩ | ⟨hlim, hroom, e⟩ | ⟨hlim, hroom, e⟩ := execPad_cases s <;> rw [e]
  · rw [if_pos hlim]
    rfl
  · rw [if_neg hlim.not_ge, if_neg hroom.not_ge]
    rfl
  · rw [if_neg hlim.not_ge, if_pos hroom]

/-- Settles O30, by the equation of PAD: the padded `WORK` is `WORK` and then the padding. -/
theorem padAppendsThePadding : Obligations.PadAppendsThePadding := by
  refine ⟨decode_phaseCode .pad, ?_⟩
  rintro s _ rfl
  rw [← List.length_append]
  exact ⟨fun hlim hroom => (execPad_eq s).trans ((if_neg hlim.not_ge).trans (if_pos hroom)),
    fun hlim => (execPad_eq s).trans (if_pos hlim),
    fun hlim hroom => (execPad_eq s).trans ((if_neg hlim.not_ge).trans (if_neg hroom.not_ge))⟩

/-- Settles O31: neither error PAD takes is the invariant's or leads to FETCH (`execPad_cases`), and a padded `WORK` is
whole blocks, at least one. -/
theorem padInvariantCheckNeverFails : Obligations.PadInvariantCheckNeverFails := by
  intro s t herr ht
  have ht : execPad s = .next t := ht
  obtain ⟨-, e⟩ | ⟨-, -, e⟩ | ⟨-, -, e⟩ := execPad_cases s <;> rw [e] at ht <;> cases ht
  · exact ⟨nofun, nofun⟩
  · exact ⟨nofun, nofun⟩
  · exact ⟨herr, fun _ => ⟨padded_length_eq_blocks s.work s.prior, padded_blocks_pos s.work s.prior⟩⟩

end Sys2Proof.Machine

/-! ## Proofs of the compression family (42_compression): the logical functions, SCHED, ROUND and FOLD, and their run -/

namespace Sys2Proof.Machine

/-! ### The logical functions bit by bit (42 R121, R122, R123) -/

theorem not32_eq_not (x : Word) : not32 x = ~~~x := BitVec.allOnes_sub_eq_not x

theorem ch_getLsbD (x y z : Word) {i : Nat} (hi : i < 32) :
    (ch x y z).getLsbD i = if x.getLsbD i = true then y.getLsbD i else z.getLsbD i := by
  rw [ch, not32_eq_not, BitVec.getLsbD_xor, BitVec.getLsbD_and, BitVec.getLsbD_and, BitVec.getLsbD_not,
    decide_eq_true hi]
  cases x.getLsbD i <;> simp

/-- The xor of the three pairwise ands of bits is their majority. -/
theorem majority_iff (a b c : Bool) : ((a && b) ^^ (a && c) ^^ (b && c)) = true ↔ 2 ≤ List.count true [a, b, c] := by
  revert a b c
  decide

theorem maj_getLsbD (x y z : Word) (i : Nat) :
    (maj x y z).getLsbD i = true ↔ 2 ≤ List.count true [x.getLsbD i, y.getLsbD i, z.getLsbD i] := by
  rw [← majority_iff]
  simp only [maj, BitVec.getLsbD_xor, BitVec.getLsbD_and]

/-- `σ0` and `σ1` xor two rotations and a shift. -/
theorem xor_rotr_rotr_shr_getLsbD (x : Word) {m n i : Nat} (k : Nat) (hm : m < 32) (hn : n < 32) (hi : i < 32) :
    (rotr x m ^^^ rotr x n ^^^ shr x k).getLsbD i =
      Bool.xor (x.getLsbD ((i + m) % 32)) (Bool.xor (x.getLsbD ((i + n) % 32)) (x.getLsbD (i + k))) := by
  rw [BitVec.getLsbD_xor, BitVec.getLsbD_xor, rotr_getLsbD x hm hi, rotr_getLsbD x hn hi, shr_getLsbD, Bool.xor_assoc]

/-- `Σ0` and `Σ1` xor three rotations. -/
theorem xor_rotr_rotr_rotr_getLsbD (x : Word) {m n k i : Nat} (hm : m < 32) (hn : n < 32) (hk : k < 32) (hi : i < 32) :
    (rotr x m ^^^ rotr x n ^^^ rotr x k).getLsbD i =
      Bool.xor (x.getLsbD ((i + m) % 32)) (Bool.xor (x.getLsbD ((i + n) % 32)) (x.getLsbD ((i + k) % 32))) := by
  rw [BitVec.getLsbD_xor, BitVec.getLsbD_xor, rotr_getLsbD x hm hi, rotr_getLsbD x hn hi, rotr_getLsbD x hk hi,
    Bool.xor_assoc]

/-- Settles O47: `Ch` and `Maj` by the cases of their bits, the sigmas by the bits of `ROTR` and `SHR`. -/
theorem logicalFunctionsBitByBit : Obligations.LogicalFunctionsBitByBit := fun x y z i hi =>
  ⟨ch_getLsbD x y z hi, maj_getLsbD x y z i, xor_rotr_rotr_shr_getLsbD x 3 (by decide) (by decide) hi,
    xor_rotr_rotr_shr_getLsbD x 10 (by decide) (by decide) hi,
    xor_rotr_rotr_rotr_getLsbD x (by decide) (by decide) (by decide) hi,
    xor_rotr_rotr_rotr_getLsbD x (by decide) (by decide) (by decide) hi⟩

/-! ### ROUND and FOLD (42 R128, R129) -/

theorem execRound_of_lt {s : State} (h : s.t.val < 64) :
    execRound s = .next { s with
      v := roundStep s.v s.w[s.t.val] (roundConstant s.t.val)
      t := ⟨s.t.val + 1, Nat.succ_lt_succ h⟩
      phase := if s.t.val + 1 = 64 then .fold else .round } :=
  dif_pos h

/-- Settles O34, by the equation of ROUND below `T = 64`; `roundStep` unfolds to the sums and moves stated. -/
theorem roundRotatesTheWorkingVariables : Obligations.RoundRotatesTheWorkingVariables := by
  refine ⟨decode_phaseCode .round, ?_⟩
  rintro s hlt _ _ rfl rfl
  have hlast : s.t.val + 1 = 64 ↔ s.t.val = 63 := by omega
  refine (execRound_of_lt hlt).trans ?_
  simp only [hlast]
  rfl

theorem feedForward_toNat (h v : Vector Word 8) (i : Fin 8) :
    ((feedForward h v)[i]).toNat = ((h[i]).toNat + (v[i]).toNat) % 2 ^ 32 := by
  rw [feedForward, Fin.getElem_fin, Vector.getElem_ofFn, add32, BitVec.toNat_add]

/-- Settles O35 with `feedForward s.h s.v`. -/
theorem foldAddsElementwise : Obligations.FoldAddsElementwise :=
  ⟨decode_phaseCode .fold, fun s => ⟨feedForward s.h s.v, rfl, feedForward_toNat s.h s.v⟩⟩

/-! ### What the compression does not read (42 R131) -/

/-- Settles O44: SCHED and FOLD have one answer; whether ROUND answers turns on `T` alone. -/
theorem compressionReadsNoModePriorOrDin : Obligations.CompressionReadsNoModePriorOrDin := by
  rintro i s t mode prior din (rfl | rfl | rfl) ht
  case inl =>
    cases ht
    rfl
  case inr.inl =>
    have ht : execRound s = .next t := ht
    obtain ⟨hlt, e⟩ | ⟨-, e⟩ := execRound_cases s <;> rw [e] at ht <;> cases ht
    exact execRound_of_lt (s := { s with mode := mode, prior := prior, din := din }) hlt
  case inr.inr =>
    cases ht
    rfl

/-! ### SCHED, 64 ROUNDs and FOLD in a row (42 R130) -/

/-- The state that SCHED and then `n` rounds make of `s`. -/
def afterRounds (s : State) (n : Fin 65) : State :=
  { s with
    w := schedule s.block
    v := roundsUpTo (schedule s.block) s.h n.val
    t := n
    phase := if n.val = 64 then .fold else .round }

theorem execSched_eq_afterRounds (s : State) : execSched s = .next (afterRounds s 0) := rfl

theorem roundsUpTo_succ (w : Vector Word 64) (v : Vector Word 8) {n : Nat} (hn : n < 64) :
    roundsUpTo w v (n + 1) = roundStep (roundsUpTo w v n) w[n] (roundConstant n) := by
  rw [roundsUpTo, vector_toList_getD w ⟨n, hn⟩, Fin.getElem_fin]

theorem execRound_afterRounds (s : State) {n : Nat} (hn : n < 64) :
    execRound (afterRounds s ⟨n, Nat.lt_succ_of_lt hn⟩) = .next (afterRounds s ⟨n + 1, Nat.succ_lt_succ hn⟩) := by
  have hv := roundsUpTo_succ (schedule s.block) s.h hn
  exact (execRound_of_lt hn).trans <|
    congrArg (fun v => Host.Outcome.next { afterRounds s ⟨n + 1, Nat.succ_lt_succ hn⟩ with v := v }) hv.symm

/-- FOLD after the 64th round: `compress` is the feed-forward of all rounds. -/
theorem execFold_afterRounds (s : State) (n : Fin 65) (hn : n.val = 64) :
    execFold (afterRounds s n) = .next { afterRounds s n with
      h := compress s.h s.block, blkidx := s.blkidx + 1, phase := .fetch } := by
  simp only [execFold, afterRounds, compress, hn]

section
variable {s : State} (hbusy : s.busy = true) (hphase : s.phase = .sched) (hwaits : hostWaits s.pending = true)
include hbusy hphase hwaits

/-- SCHED and `n` rounds, by induction on the rounds. -/
theorem run_sched_rounds {n : Nat} (hn : n ≤ 64) : run (1 + n) s = .next (afterRounds s ⟨n, Nat.lt_succ_of_le hn⟩) := by
  induction n with
  | zero =>
    refine run_phase hbusy hwaits ?_
    rw [hphase]
    exact execSched_eq_afterRounds s
  | succ n ih =>
    have hlt : n < 64 := hn
    rw [← Nat.add_assoc]
    refine run_trans (ih hlt.le) (run_phase hbusy hwaits ?_)
    have hround : (afterRounds s ⟨n, Nat.lt_succ_of_lt hlt⟩).phase = .round := if_neg hlt.ne
    rw [hround]
    exact execRound_afterRounds s hlt

/-- A block's compression, run from SCHED to FETCH. -/
theorem run_compression : run 66 s = .next { afterRounds s 64 with
    h := compress s.h s.block, blkidx := s.blkidx + 1, phase := .fetch } :=
  run_trans (run_sched_rounds hbusy hphase hwaits (Nat.le_refl 64))
    (run_phase hbusy hwaits (execFold_afterRounds s 64 rfl))

end

/-- Settles O53, by the run of SCHED, the rounds (`run_sched_rounds`) and FOLD. -/
theorem compressionRunsSchedRoundsFold : Obligations.CompressionRunsSchedRoundsFold := fun _ hbusy hphase hwaits =>
  ⟨_, run_compression hbusy hphase hwaits, rfl⟩

end Sys2Proof.Machine

/-! ## Proofs of the hash engine family (43_hash_engine): FETCH, the block loop, the commands run to their end, and the
length-extension property -/

namespace Sys2Proof.Machine

/-! ### FETCH (43 R143) -/

theorem execFetch_of_end {s : State} (h : s.blkidx = s.nblk) : execFetch s = .next { s with phase := .finish } :=
  if_pos h

theorem execFetch_of_block {s : State} (hne : s.blkidx ≠ s.nblk) (hlen : 64 * s.blkidx + 64 ≤ s.work.length) :
    execFetch s = .next { s with block := messageBlock s.work s.blkidx, phase := .sched } := by
  obtain ⟨hend, -⟩ | ⟨-, -, e⟩ | ⟨-, hshort, -⟩ := execFetch_cases s
  · exact absurd hend hne
  · exact e
  · omega

/-- Byte `k` of block `i` is byte `64*i + k` of the message, where the block exists. -/
theorem getElem?_eq_messageBlock {p : Buffer} {i : Nat} (hlen : 64 * i + 64 ≤ p.length) (k : Fin 64) :
    p[64 * i + k.val]? = some (messageBlock p i)[k] := by
  have hk : 64 * i + k.val < p.length := by omega
  rw [messageBlock, Fin.getElem_fin, Vector.getElem_ofFn, List.getD_eq_getElem _ _ hk, List.getElem?_eq_getElem hk]

/-- Settles O32: the block taken is `messageBlock` at `BLKIDX`. -/
theorem fetchTakesTheNextBlock : Obligations.FetchTakesTheNextBlock :=
  ⟨decode_phaseCode .fetch, fun _ => ⟨execFetch_of_end, fun hne hlen =>
    ⟨_, execFetch_of_block hne hlen, getElem?_eq_messageBlock hlen⟩⟩⟩

/-! ### The length-extension property (45 R172, R176) -/

/-- Of the base length the padding depends only on the place in the last block. -/
theorem padBytes_blocks_add (n base total : Nat) : padBytes (64 * n + base) total = padBytes base total := by
  rw [padBytes, padBytes, Nat.mul_add_mod]

/-- Whole blocks in front of a message are, to its padding, a prior length. -/
theorem padded_blocks_append {p : Buffer} {n : Nat} (h : p.length = 64 * n) (q : Buffer) (prior : Nat) :
    padded (p ++ q) prior = p ++ padded q (64 * n + prior) := by
  rw [padded, padded, List.length_append, h, padBytes_blocks_add, List.append_assoc, Nat.add_right_comm, Nat.add_comm]

/-- The hash of a message that starts with whole blocks goes on from the chaining value after them. -/
theorem hash_blocks_append {p : Buffer} {n : Nat} (h : p.length = 64 * n) (q : Buffer) (prior : Nat)
    (cv : Vector Word 8) : hash (p ++ q) prior cv = hash q (64 * n + prior) (hashBlocks p cv n) := by
  rw [hash, hash, padded_blocks_append h, List.length_append, h, Nat.mul_add_div (by decide), hashBlocks_append h]

/-- A message and its glue are the padded message, so that `PriorBlockCount` counts the blocks of it. -/
theorem priorBlockCount_length (message : Buffer) :
    priorBlockCount message.length = (padded message 0).length / 64 := by
  rw [priorBlockCount, padded, List.length_append]
  rfl

/-- Settles O60: the forged message is the padded `KEY ‖ MSG`, whole blocks whose chaining value is the MAC, and then the
suffix. -/
theorem lengthExtensionForgesTheMac : Obligations.LengthExtensionForgesTheMac := by
  rintro key message suffix _ rfl
  have hforged : key ++ (message ++ glueBytes (key ++ message).length ++ suffix) =
      padded (key ++ message) 0 ++ suffix := by
    simp only [padded, glueBytes, Nat.add_zero, List.append_assoc]
  rw [← List.length_append, hforged, priorBlockCount_length,
    hash_blocks_append (padded_length_eq_blocks (key ++ message) 0)]
  rfl

/-! ### The block loop, from PAD to the end of the command (43 R143, R144; 46 R192) -/

/-- Some number of steps leads from `s` to `t`. -/
def Reaches (s t : State) : Prop := ∃ n, run n s = .next t

theorem Reaches.trans {s t u : State} (h : Reaches s t) (h' : Reaches t u) : Reaches s u := by
  obtain ⟨n, hn⟩ := h
  obtain ⟨m, hm⟩ := h'
  exact ⟨n + m, run_trans hn hm⟩

/-- A run goes on by the operation of a phase that the host leaves alone. -/
theorem Reaches.phase {s t u : State} (h : Reaches s t) (op : State → Result) (hop : exec (phaseInstr t.phase) = op)
    (hbusy : t.busy = true) (hwaits : hostWaits t.pending = true) (he : op t = .next u) : Reaches s u := by
  subst op
  exact h.trans ⟨1, run_phase hbusy hwaits he⟩

/-- The state at FETCH that PAD and then `i` blocks make of `s`. The compression's scratch is that of `x`: no result
rests on it. -/
def afterBlocks (s x : State) (i : Nat) : State :=
  { s with
    work := padded s.work s.prior
    nblk := (padded s.work s.prior).length / 64
    blkidx := i
    h := hashBlocks (padded s.work s.prior) s.h i
    phase := .fetch
    block := x.block
    v := x.v
    w := x.w
    t := x.t }

theorem execPad_eq_afterBlocks {s : State} (hlim : s.work.length + s.prior < lengthLimit)
    (hroom : (padded s.work s.prior).length ≤ Config.bufCap) : execPad s = .next (afterBlocks s s 0) :=
  (execPad_eq s).trans ((if_neg hlim.not_ge).trans (if_pos hroom))

/-- FETCH and the compression of block `i`. -/
theorem afterBlocks_reaches_succ {s : State} (hbusy : s.busy = true) (hwaits : hostWaits s.pending = true) (x : State)
    {i : Nat} (hi : i < (padded s.work s.prior).length / 64) :
    ∃ y, Reaches (afterBlocks s x i) (afterBlocks s y (i + 1)) := by
  have hlen : 64 * i + 64 ≤ (padded s.work s.prior).length := by omega
  have hfetch := run_phase (s := afterBlocks s x i) hbusy hwaits (execFetch_of_block hi.ne hlen)
  exact ⟨_, _, run_trans hfetch (run_compression hbusy rfl hwaits)⟩

/-- What FINISH makes of a state. -/
def finished (s : State) : State :=
  { clearInputs s with
    matched := if s.mode = .valmac then equal8 s.h s.din else s.matched
    dvalid := true
    ovalid := if s.mode = .attack then true else s.ovalid
    done := true
    busy := false
    phase := .idle }

theorem execFinish_eq (s : State) : execFinish s = .next (finished s) := rfl

section
variable {s : State} (hbusy : s.busy = true) (hphase : s.phase = .pad) (hwaits : hostWaits s.pending = true)
  (hlim : s.work.length + s.prior < lengthLimit) (hroom : (padded s.work s.prior).length ≤ Config.bufCap)
include hbusy hphase hwaits hlim hroom

/-- PAD and `i` blocks, by induction on the blocks. -/
theorem reaches_afterBlocks {i : Nat} (hi : i ≤ (padded s.work s.prior).length / 64) :
    ∃ x, Reaches s (afterBlocks s x i) := by
  induction i with
  | zero =>
    refine ⟨s, 1, run_phase hbusy hwaits ?_⟩
    rw [hphase]
    exact execPad_eq_afterBlocks hlim hroom
  | succ i ih =>
    obtain ⟨x, hx⟩ := ih (Nat.le_of_succ_le hi)
    obtain ⟨y, hy⟩ := afterBlocks_reaches_succ hbusy hwaits x hi
    exact ⟨y, hx.trans hy⟩

/-- A command that has reached PAD runs through all blocks, which is `hash`, and through FINISH. -/
theorem Reaches.runs_to_finish {s₀ : State} (h : Reaches s₀ s) :
    ∃ n x, run n s₀ = .next (finished { afterBlocks s x ((padded s.work s.prior).length / 64) with
      h := hash s.work s.prior s.h, phase := .finish }) := by
  obtain ⟨x, hx⟩ := reaches_afterBlocks hbusy hphase hwaits hlim hroom (Nat.le_refl _)
  have hfetch := (h.trans hx).phase execFetch rfl hbusy hwaits (execFetch_of_end rfl)
  obtain ⟨n, hn⟩ := hfetch.phase execFinish rfl hbusy hwaits (execFinish_eq _)
  exact ⟨n, x, hn⟩

end

/-! ### The phases before PAD, as each command runs them (46 R189, R190; 44 R156; 45 R174; 43 R141) -/

/-- The host's write of a command word and then DECODE. -/
theorem reaches_decoded {s t : State} {rest : List HostAction} {word : BitVec 32} (hb : s.busy = false)
    (hp : s.phase = .idle) (hpending : s.pending = .write regCmd (word.setWidth 64) :: rest)
    (hwaits : hostWaits rest = true) (hw : word ≠ wordSrst)
    (hdecode : execDecode (issueCommand word { s with pending := rest }) = .next t) : Reaches s t :=
  Reaches.phase ⟨1, run_one (step_of_command hb hp hw hpending)⟩ execDecode rfl rfl hwaits hdecode

theorem execParse_of_valmac {s : State} {d : Vector Word 8} (hm : s.mode = .valmac) (hd : parseDigest s.dhex = some d) :
    execParse s = .next { s with din := d, phase := .load } := by
  simp [execParse, hd, hm]

theorem execParse_of_attack {s : State} {d : Vector Word 8} (hm : s.mode = .attack) (hk : s.keylen ≠ 0#64)
    (hd : parseDigest s.dhex = some d) : execParse s = .next { s with din := d, phase := .glue } := by
  simp [execParse, hd, hm, hk]

theorem execGlue_of_room {s : State} {total : Nat} (htotal : total = s.keylen.toNat + s.msg.length)
    (hlim : total < lengthLimit) (hroom : s.msg.length + (glueBytes total).length + s.sfx.length ≤ Config.bufCap) :
    execGlue s = .next { s with
      pbc := priorBlockCount total, out := s.msg ++ glueBytes total ++ s.sfx, glueOff := s.msg.length,
      glueLen := (glueBytes total).length, phase := .load } := by
  subst htotal
  obtain ⟨hover, -⟩ | ⟨-, hfull, -⟩ | ⟨-, -, e⟩ := execGlue_cases s
  · exact absurd hlim hover.not_gt
  · exact absurd hroom hfull.not_ge
  · exact e

/-- Where a message fits padded, it fits. -/
theorem length_le_of_padded {message : Buffer} {prior n : Nat} (h : (padded message prior).length ≤ n) :
    message.length ≤ n := by
  rw [padded_length] at h
  omega

/-- A message that fits `BUF_CAP` padded is below the length limit. -/
theorem length_lt_lengthLimit {message : Buffer} (h : (padded message 0).length ≤ Config.bufCap) :
    message.length + 0 < lengthLimit :=
  (length_le_of_padded h).trans_lt bufCap_lt

/-- In the two MAC modes LOAD has room for what PAD has room for. -/
theorem execLoad_of_mac_room {s : State} (hm : s.mode = .genmac ∨ s.mode = .valmac)
    (hroom : (padded (s.key ++ s.msg) 0).length ≤ Config.bufCap) :
    execLoad s = .next { s with work := s.key ++ s.msg, prior := 0, h := initialValue, phase := .pad } := by
  have hfits := length_le_of_padded hroom
  rw [List.length_append, Nat.add_comm] at hfits
  exact (execLoad_of_mac hm).trans (if_pos hfits)

theorem equal8_iff (x y : Vector Word 8) : equal8 x y = true ↔ x = y := by
  simp [equal8, Vector.ext_iff, Fin.forall_iff]

/-! ### The commands, run to their end (43 R147; 44 R158, R159; 45 R175) -/

/-- Settles O54: issue and DECODE, LOAD, and the run from PAD (`Reaches.runs_to_finish`). -/
theorem checksumRunsToItsDigest : Obligations.ChecksumRunsToItsDigest := by
  intro s rest hb hp hpending hwaits hroom
  have hdecode := reaches_decoded (word := wordChecksum) hb hp hpending hwaits (by decide) rfl
  have hload := hdecode.phase execLoad rfl rfl hwaits (execLoad_of_checksum rfl)
  obtain ⟨n, x, hn⟩ := hload.runs_to_finish rfl rfl hwaits (length_lt_lengthLimit hroom) hroom
  exact ⟨n, _, hn, by and_intros <;> rfl⟩

/-- Settles O55: issue and DECODE, LOAD with the key first, and the run from PAD (`Reaches.runs_to_finish`). -/
theorem genmacRunsToItsMac : Obligations.GenmacRunsToItsMac := by
  intro s rest hb hp hpending hwaits hroom
  have hdecode := reaches_decoded (word := wordGenmac) hb hp hpending hwaits (by decide) rfl
  have hload := hdecode.phase execLoad rfl rfl hwaits (execLoad_of_mac_room (.inl rfl) hroom)
  obtain ⟨n, x, hn⟩ := hload.runs_to_finish rfl rfl hwaits (length_lt_lengthLimit hroom) hroom
  exact ⟨n, _, hn, by and_intros <;> rfl⟩

/-- Settles O56: as GENMAC with PARSE before LOAD; FINISH compares `H` with the claimed digest (`equal8_iff`). -/
theorem valmacRunsToItsVerdict : Obligations.ValmacRunsToItsVerdict := by
  intro s rest claimed hb hp hpending hwaits hclaimed hroom
  have hdecode := reaches_decoded (word := wordValmac) hb hp hpending hwaits (by decide) rfl
  have hparse := hdecode.phase execParse rfl rfl hwaits (execParse_of_valmac rfl hclaimed)
  have hload := hparse.phase execLoad rfl rfl hwaits (execLoad_of_mac_room (.inr rfl) hroom)
  obtain ⟨n, x, hn⟩ := hload.runs_to_finish rfl rfl hwaits (length_lt_lengthLimit hroom) hroom
  exact ⟨n, _, hn, rfl, equal8_iff _ claimed, by and_intros <;> rfl⟩

/-- Settles O58: issue and DECODE, PARSE, GLUE, LOAD of the suffix with the leaked digest, and the run from PAD
(`Reaches.runs_to_finish`). -/
theorem attackRunsToTheForgery : Obligations.AttackRunsToTheForgery := by
  intro s rest leaked total hb hp hpending hwaits hleaked hkeylen htotal hlim hout hsuffix hroom
  have hdecode := reaches_decoded (word := wordAttack) hb hp hpending hwaits (by decide) rfl
  have hparse := hdecode.phase execParse rfl rfl hwaits (execParse_of_attack rfl hkeylen hleaked)
  have hglue := hparse.phase execGlue rfl rfl hwaits (execGlue_of_room htotal hlim hout)
  have hload := hglue.phase execLoad rfl rfl hwaits (execLoad_of_attack rfl)
  obtain ⟨n, x, hn⟩ := hload.runs_to_finish rfl rfl hwaits hsuffix hroom
  exact ⟨n, _, hn, by and_intros <;> rfl⟩

end Sys2Proof.Machine

/-! ## Proofs of the MAC family (44_mac): PARSE, FINISH, and the acceptance of a generated MAC -/

namespace Sys2Proof.Machine

/-! ### PARSE (44 R156) -/

theorem execParse_of_not_attack {s : State} {d : Vector Word 8} (hd : parseDigest s.dhex = some d)
    (hm : s.mode ≠ .attack) : execParse s = .next { s with din := d, phase := .load } := by
  obtain ⟨_, -, hattack, -⟩ | ⟨d', hd', -, e⟩ | ⟨hnone | ⟨hattack, -⟩, -⟩ := execParse_cases s
  · exact absurd hattack hm
  · obtain rfl : d = d' := Option.some.inj (hd.symm.trans hd')
    exact e
  · cases hd.symm.trans hnone
  · exact absurd hattack hm

theorem execParse_of_usageError {s : State}
    (h : parseDigest s.dhex = none ∨ (s.mode = .attack ∧ s.keylen = 0#64)) :
    execParse s = .next (raiseError .usageError s) := by
  obtain ⟨_, hd, hm, hk, -⟩ | ⟨_, hd, hm, -⟩ | ⟨-, e⟩ := execParse_cases s
  · obtain hnone | ⟨-, hzero⟩ := h
    · cases hnone.symm.trans hd
    · exact absurd hzero hk
  · obtain hnone | ⟨hattack, -⟩ := h
    · cases hnone.symm.trans hd
    · exact absurd hattack hm
  · exact e

/-- Settles O27: one lemma per outcome of PARSE; the UsageError entry is the non-fatal one. -/
theorem parseWritesDinOrRaisesUsageError : Obligations.ParseWritesDinOrRaisesUsageError :=
  ⟨decode_phaseCode .parse, fun s =>
    ⟨fun _ hd hm hk => execParse_of_attack hm hk hd,
     fun _ => execParse_of_not_attack,
     fun h => ⟨execParse_of_usageError h, enterNonFatal_h .usageError s, enterNonFatal_din .usageError s,
       enterNonFatal_out .usageError s⟩⟩⟩

/-! ### FINISH (44 R160; 46 R192) -/

/-- `equal8` as R160 spells it, word by word. -/
theorem equal8_iff_forall (x y : Vector Word 8) : equal8 x y = true ↔ ∀ i : Fin 8, x[i] = y[i] := by
  rw [equal8_iff, Vector.ext_iff, Fin.forall_iff]
  rfl

theorem finished_matched_of_valmac {s : State} (hm : s.mode = .valmac) : (finished s).matched = equal8 s.h s.din :=
  if_pos hm

theorem finished_matched_of_not_valmac {s : State} (hm : s.mode ≠ .valmac) : (finished s).matched = s.matched :=
  if_neg hm

theorem finished_ovalid_of_attack {s : State} (hm : s.mode = .attack) : (finished s).ovalid = true :=
  if_pos hm

theorem finished_ovalid_of_not_attack {s : State} (hm : s.mode ≠ .attack) : (finished s).ovalid = s.ovalid :=
  if_neg hm

/-- Settles O36: FINISH answers `finished`, whose `MATCH` and `OVALID` depend on the mode. -/
theorem finishEndsTheCommand : Obligations.FinishEndsTheCommand := by
  refine ⟨decode_phaseCode .finish, fun s => ⟨finished s, execFinish_eq s, rfl, fun hm => ?_,
    finished_matched_of_not_valmac, finished_ovalid_of_attack, finished_ovalid_of_not_attack⟩⟩
  rw [finished_matched_of_valmac hm, equal8_iff_forall]

/-! ### The MAC that VALMAC accepts (44 R161 (b)) -/

/-- Settles O57: the rendered MAC parses to itself (`parseDigest_renderDigest`), so that VALMAC's run to its verdict
compares the MAC with itself. -/
theorem valmacAcceptsTheGeneratedMac : Obligations.ValmacAcceptsTheGeneratedMac := by
  intro s rest hb hp hpending hwaits hdhex hroom
  have hclaimed : parseDigest s.dhex = some (hash (s.key ++ s.msg) 0 initialValue) := by
    rw [hdhex, parseDigest_renderDigest]
  obtain ⟨n, t, hrun, -, hmatched, -, -, hbusy, hdone, -, -, herr, -⟩ :=
    valmacRunsToItsVerdict s rest _ hb hp hpending hwaits hclaimed hroom
  exact ⟨n, t, hrun, hbusy, hdone, hmatched.mpr rfl, herr⟩

end Sys2Proof.Machine

/-! ## Proofs of the attacker family (45_attacker): the glue, GLUE, and what ATTACK does not read -/

namespace Sys2Proof.Machine

/-! ### The glue and the prior block count (45 R172) -/

theorem le_glueBytes_length (total : Nat) : 9 ≤ (glueBytes total).length := by
  rw [glueBytes, padBytes_length]
  exact Nat.le_add_right _ _

/-- A multiple of 64 from `T + 9` to `T + 72`: there is only one. -/
theorem add_glueBytes_length (total : Nat) : total + (glueBytes total).length = 64 * ((total + 9 + 63) / 64) := by
  have hmod : (total + (glueBytes total).length) % 64 = 0 := length_add_padBytes_mod total total
  have hle := glueBytes_length_le total
  have hge := le_glueBytes_length total
  omega

theorem priorBlockCount_eq_ceil (total : Nat) : priorBlockCount total = (total + 9 + 63) / 64 := by
  rw [priorBlockCount, add_glueBytes_length, Nat.mul_div_cancel_left _ (by decide)]

/-- Settles O51: the bytes and the first form of the count by definition, the lengths by `add_glueBytes_length`. -/
theorem glueIsThePaddingOfTheWhole : Obligations.GlueIsThePaddingOfTheWhole := fun total _ =>
  ⟨rfl, rfl, add_glueBytes_length total, rfl, priorBlockCount_eq_ceil total, le_glueBytes_length total,
    glueBytes_length_le total⟩

/-! ### GLUE (45 R174) -/

theorem execGlue_of_lengthOverflow {s : State} (h : lengthLimit ≤ priorTotalLength s) :
    execGlue s = .next (raiseError .lengthOverflow s) :=
  if_pos h

theorem execGlue_of_allocationFailure {s : State} (hlim : priorTotalLength s < lengthLimit)
    (hfull : Config.bufCap < s.msg.length + (glueBytes (priorTotalLength s)).length + s.sfx.length) :
    execGlue s = .next (raiseError .allocationFailure s) := by
  obtain ⟨hover, -⟩ | ⟨-, -, e⟩ | ⟨-, hroom, -⟩ := execGlue_cases s
  · exact absurd hlim hover.not_gt
  · exact e
  · exact absurd hfull hroom.not_gt

/-- Settles O28: one lemma per outcome of GLUE. -/
theorem glueBuildsTheForgedMessage : Obligations.GlueBuildsTheForgedMessage := by
  refine ⟨decode_phaseCode .glue, ?_⟩
  rintro s _ _ rfl rfl
  exact ⟨execGlue_of_room rfl, execGlue_of_lengthOverflow, execGlue_of_allocationFailure⟩

/-! ### What ATTACK does not read (45 R178) -/

/-- Where the first result is a next state, so is the second, and the two differ at most in `KEY`. -/
def AnswersUpToKey (r r' : Result) : Prop := ∀ t, r = .next t → ∃ t', r' = .next t' ∧ { t' with key := t.key } = t

theorem AnswersUpToKey.of_next {r r' : Result} {t t' : State} (h : r = .next t) (h' : r' = .next t')
    (hkey : { t' with key := t.key } = t) : AnswersUpToKey r r' := by
  subst h
  rintro _ ⟨⟩
  exact ⟨t', h', hkey⟩

theorem AnswersUpToKey.of_fault {r : Result} {f : Fault} (h : r = .fault f) (r' : Result) : AnswersUpToKey r r' := by
  subst h
  rintro _ ⟨⟩

section
variable (s : State) (key : Buffer)

theorem execParse_upToKey : AnswersUpToKey (execParse s) (execParse { s with key := key }) := by
  obtain ⟨_, hd, hm, hk, e⟩ | ⟨_, hd, hm, e⟩ | ⟨herr, e⟩ := execParse_cases s
  · exact .of_next e (execParse_of_attack hm hk hd) rfl
  · exact .of_next e (execParse_of_not_attack hd hm) rfl
  · exact .of_next e (execParse_of_usageError herr) rfl

theorem execGlue_upToKey : AnswersUpToKey (execGlue s) (execGlue { s with key := key }) := by
  obtain ⟨hover, e⟩ | ⟨hlim, hfull, e⟩ | ⟨hlim, hroom, e⟩ := execGlue_cases s
  · exact .of_next e (execGlue_of_lengthOverflow hover) rfl
  · exact .of_next e (execGlue_of_allocationFailure hlim hfull) rfl
  · exact .of_next e (execGlue_of_room rfl hlim hroom) rfl

/-- LOAD is the one phase that reads `KEY`, and in the two MAC modes only. -/
theorem execLoad_upToKey (hm : s.mode = .attack) : AnswersUpToKey (execLoad s) (execLoad { s with key := key }) :=
  .of_next (execLoad_of_attack hm) (execLoad_of_attack hm) rfl

theorem execPad_upToKey : AnswersUpToKey (execPad s) (execPad { s with key := key }) := by
  obtain ⟨hover, e⟩ | ⟨hlim, hfull, e⟩ | ⟨hlim, hroom, e⟩ := execPad_cases s
  · exact .of_next e ((execPad_eq _).trans (if_pos hover)) rfl
  · exact .of_next e ((execPad_eq _).trans ((if_neg hlim.not_ge).trans (if_neg hfull.not_ge))) rfl
  · exact .of_next e ((execPad_eq _).trans ((if_neg hlim.not_ge).trans (if_pos hroom))) rfl

theorem execFetch_upToKey : AnswersUpToKey (execFetch s) (execFetch { s with key := key }) := by
  obtain ⟨hend, e⟩ | ⟨hne, hlen, e⟩ | ⟨-, -, e⟩ := execFetch_cases s
  · exact .of_next e (execFetch_of_end hend) rfl
  · exact .of_next e (execFetch_of_block hne hlen) rfl
  · exact .of_fault e _

theorem execRound_upToKey : AnswersUpToKey (execRound s) (execRound { s with key := key }) := by
  obtain ⟨hlt, e⟩ | ⟨-, e⟩ := execRound_cases s
  · exact .of_next e (execRound_of_lt (s := { s with key := key }) hlt) rfl
  · exact .of_fault e _

end

/-- Settles O45: one lemma per phase; SCHED, FOLD and FINISH have one answer. -/
theorem attackNeverReadsTheKey : Obligations.AttackNeverReadsTheKey := by
  rintro i s t key hm (rfl | rfl | rfl | rfl | rfl | rfl | rfl | rfl | rfl)
  · exact execParse_upToKey s key t
  · exact execGlue_upToKey s key t
  · exact execLoad_upToKey s key hm t
  · exact execPad_upToKey s key t
  · exact execFetch_upToKey s key t
  · exact AnswersUpToKey.of_next rfl rfl rfl t
  · exact execRound_upToKey s key t
  · exact AnswersUpToKey.of_next rfl rfl rfl t
  · exact AnswersUpToKey.of_next rfl rfl rfl t

end Sys2Proof.Machine

/-! ## Proofs of the host commands family (46_host_commands): what a step runs, writes held or ignored, DECODE, and the
phase-transition table -/

namespace Sys2Proof.Machine

/-! ### What a step runs (46 R188, R191) -/

/-- The phase's code decodes to the phase's instruction and to no other (30 R77). -/
theorem phaseInstr_of_decode {p : Phase} {i : Instr} (h : decode (.phase (phaseCode p)) = .instr i) : phaseInstr p = i :=
  Decoded.instr.inj ((decode_phaseCode p).symm.trans h)

theorem runEncoded_of_decode {e : Encoded} {i : Instr} (h : decode e = .instr i) (s : State) :
    runEncoded e s = exec i s := by
  simp only [runEncoded, h]

/-- A transaction that `BUSY = 1` holds: any but a read of `STATUS` (46 R188). -/
theorem isHeld_of_transaction {a : HostAction}
    (ha : (∃ reg value, a = .write reg value) ∨ ∃ reg, a = .read reg ∧ reg ≠ regStatus) : isHeld true a = true := by
  obtain ⟨_, _, rfl⟩ | ⟨reg, rfl, hreg⟩ := ha
  · rfl
  · exact bne_iff_ne.mpr hreg

theorem hostWaits_of_isHeld {a : HostAction} {rest : List HostAction} (ha : isHeld true a = true)
    (hrest : ∀ later, rest ≠ .hardReset :: later ∧ rest ≠ .pause :: later) : hostWaits (a :: rest) = true := by
  cases rest with
  | nil => simp only [hostWaits, ha, Bool.and_true]
  | cons b later =>
    cases b with
    | write reg value => simp only [hostWaits, ha, Bool.and_true]
    | read reg => simp only [hostWaits, ha, Bool.and_true]
    | hardReset => exact absurd rfl (hrest later).1
    | pause => exact absurd rfl (hrest later).2

/-- Settles O12: the transaction is held (`isHeld_of_transaction`), so that the host waits and the step is the phase's
operation (`step_of_hostWaits`). -/
theorem busyHoldsEveryOtherTransaction : Obligations.BusyHoldsEveryOtherTransaction := by
  intro s a rest i hb hpending ha hrest hi
  obtain rfl := phaseInstr_of_decode hi
  refine step_of_hostWaits hb ?_
  rw [hpending]
  exact hostWaits_of_isHeld (isHeld_of_transaction ha) hrest

/-- Settles O18: one form of the step per way the host's list can begin. -/
theorem stepRunsTheDecodedInstruction : Obligations.StepRunsTheDecodedInstruction := by
  refine fun s i => ⟨fun reg value rest hb hpending hi => ?_, fun hi => ?_⟩
  · exact (step_of_write hb hpending).trans (runEncoded_of_decode hi _)
  · obtain rfl := phaseInstr_of_decode hi
    exact ⟨step_of_nil, fun _ => step_of_pause, step_of_hostWaits⟩

/-- Settles O13: a read of `STATUS` is never held (`step_of_read`). -/
theorem statusReadCompletesAtOnce : Obligations.StatusReadCompletesAtOnce := by
  intro s rest hpending
  rw [step_of_read (.inr rfl) hpending, completeRead, hostRead_of_pending]
  rfl

/-! ### Writes while `BUSY = 1` (46 R188) -/

section
variable {s : State}

theorem writeCommand_busy (hb : s.busy = true) (word : BitVec 32) :
    writeCommand word s = holdWrite regCmd (word.setWidth 64) s :=
  if_pos hb

theorem writePort_busy (hb : s.busy = true) (p : InputBuffer) (value : BitVec 64) :
    writePort p value s = holdWrite (portOf p) value s :=
  if_pos hb

theorem execWrKeylen_busy (hb : s.busy = true) (value : BitVec 64) :
    execWrKeylen value s = .next (holdWrite regKeylen value s) :=
  if_pos hb

theorem execWrOutAddr_busy (hb : s.busy = true) (value : BitVec 64) :
    execWrOutAddr value s = .next (holdWrite regOutAddr value s) :=
  if_pos hb

/-- With `BUSY = 1` the instruction of a host write holds that write, whatever its value. -/
theorem exec_write_busy (hb : s.busy = true) {i : Instr} {reg : BitVec 8} {value : BitVec 64}
    (h : encode i = .write reg value) : exec i s = .next (holdWrite reg value s) := by
  cases i with
  | checksum => cases h; exact congrArg _ (writeCommand_busy hb wordChecksum)
  | genmac => cases h; exact congrArg _ (writeCommand_busy hb wordGenmac)
  | valmac => cases h; exact congrArg _ (writeCommand_busy hb wordValmac)
  | attack => cases h; exact congrArg _ (writeCommand_busy hb wordAttack)
  | srst => cases h; exact congrArg _ (writeCommand_busy hb wordSrst)
  | idle | decode | parse | glue | load | pad | fetch | sched | round | fold | finish | fault => cases h
  | wrKeyPort => cases h; exact congrArg _ (writePort_busy hb .key value)
  | wrMsgPort => cases h; exact congrArg _ (writePort_busy hb .msg value)
  | wrSfxPort => cases h; exact congrArg _ (writePort_busy hb .sfx value)
  | wrDhexPort => cases h; exact congrArg _ (writePort_busy hb .dhex value)
  | wrKeylen => cases h; exact execWrKeylen_busy hb value
  | wrOutAddr => cases h; exact execWrOutAddr_busy hb value

end

/-- Settles O19: `exec_write_busy`, whose `holdWrite` puts the write back at the head of the host's list. -/
theorem writesAreHeldWhileBusy : Obligations.WritesAreHeldWhileBusy :=
  fun _ _ _ _ hb _ h => exec_write_busy hb h

/-! ### Writes with `BUSY = 0`, in `IDLE` and in `FAULT` (46 R187, R196; 60 R217, R219) -/

/-- In `FAULT` a write that is not held is ignored or is `SRST`. -/
theorem runEncoded_write_fault {s : State} (hb : s.busy = false) (hp : s.phase = .fault) (reg : BitVec 8)
    (value : BitVec 64) :
    runEncoded (.write reg value) s = .next s ∨
    ((reg = regCmd ∧ value.setWidth 32 = wordSrst) ∧ runEncoded (.write reg value) s = .next (applyReset s)) := by
  obtain e | ⟨hreg, hword, e⟩ | ⟨-, -, hne, -⟩ | ⟨_, -, hne, -⟩ | ⟨_, -, hne, -⟩ | ⟨-, hne, -⟩ | ⟨-, hne, -⟩ :=
    runEncoded_write_cases reg value s hb
  · exact .inl e
  · exact .inr ⟨⟨hreg, hword⟩, e⟩
  all_goals exact absurd hp hne

/-- Settles O17: the write is not `SRST`, so that `runEncoded_write_fault` leaves it ignored. -/
theorem faultIgnoresEveryWriteButSoftReset : Obligations.FaultIgnoresEveryWriteButSoftReset := by
  intro s reg value rest hb hp hpending hword
  rw [step_of_write hb hpending]
  exact (runEncoded_write_fault (s := { s with pending := rest }) hb hp reg value).resolve_right fun ⟨h, _⟩ => hword h

/-- `t` is `s` but for the host's lists. -/
def SameCore (s t : State) : Prop := t = { s with pending := t.pending, replies := t.replies }

/-- The host's next action is the hard reset or the write of `SRST`. -/
def HostResets (s : State) : Prop :=
  ∃ rest, s.pending = .hardReset :: rest ∨
    ∃ value : BitVec 64, value.setWidth 32 = wordSrst ∧ s.pending = .write regCmd value :: rest

/-- A step in `FAULT` changes nothing of CORE unless the host resets. -/
theorem step_fault_cases {s : State} (hb : s.busy = false) (hp : s.phase = .fault) :
    (∃ t, step s = .next t ∧ SameCore s t) ∨
    (HostResets s ∧ ∃ rest, step s = .next (applyReset { s with pending := rest })) := by
  obtain ⟨-, e⟩ | ⟨rest, -, e⟩ | ⟨rest, h, e⟩ | ⟨reg, rest, -, e⟩ | ⟨reg, value, rest, h, e⟩ := step_notBusy_cases hb
  · exact .inl ⟨_, e.trans (exec_phaseInstr_of_waiting (.inr hp) _), rfl⟩
  · exact .inl ⟨_, e.trans (exec_phaseInstr_of_waiting (.inr hp) _), rfl⟩
  · exact .inr ⟨⟨rest, .inl h⟩, rest, e⟩
  · exact .inl ⟨_, e, rfl⟩
  · obtain e' | ⟨⟨rfl, hword⟩, e'⟩ := runEncoded_write_fault (s := { s with pending := rest }) hb hp reg value
    · exact .inl ⟨_, e.trans e', rfl⟩
    · exact .inr ⟨⟨rest, .inr ⟨value, hword, h⟩⟩, rest, e.trans e'⟩

/-- Settles O42, by `step_fault_cases`; a reset leaves status word 0 and `IDLE` (`applyReset_hasResetValues`). -/
theorem onlyResetLeavesFault : Obligations.OnlyResetLeavesFault := by
  intro s t hb hp e
  obtain ⟨u, hu, hsame⟩ | ⟨hresets, rest, hu⟩ := step_fault_cases hb hp <;>
    obtain rfl := Host.Outcome.next.inj (hu.symm.trans e)
  · exact .inl hsame
  · obtain ⟨hphase, hstatus, -⟩ := applyReset_hasResetValues { s with pending := rest } trivial
    exact .inr ⟨hstatus, hphase, hresets⟩

section
variable {s : State}

theorem execWrKeylen_idle (hb : s.busy = false) (hp : s.phase = .idle) (value : BitVec 64) :
    execWrKeylen value s = .next { s with keylen := value } := by
  simp [execWrKeylen, hb, hp]

theorem execWrKeylen_fault (hb : s.busy = false) (hp : s.phase = .fault) (value : BitVec 64) :
    execWrKeylen value s = .next s := by
  simp [execWrKeylen, hb, hp]

theorem execWrOutAddr_idle (hb : s.busy = false) (hp : s.phase = .idle) (value : BitVec 64) :
    execWrOutAddr value s = .next { s with outAddr := value } := by
  simp [execWrOutAddr, hb, hp]

theorem execWrOutAddr_fault (hb : s.busy = false) (hp : s.phase = .fault) (value : BitVec 64) :
    execWrOutAddr value s = .next s := by
  simp [execWrOutAddr, hb, hp]

end

/-- Settles O23: one lemma per register and phase. -/
theorem keylenAndOutAddrWrites : Obligations.KeylenAndOutAddrWrites := fun _ value hb =>
  ⟨fun hp => ⟨execWrKeylen_idle hb hp value, execWrOutAddr_idle hb hp value⟩,
    fun hp => ⟨execWrKeylen_fault hb hp value, execWrOutAddr_fault hb hp value⟩⟩

/-! ### DECODE (46 R190) -/

section
variable {s : State}

theorem execDecode_of_checksum (h : s.cmdreg = wordChecksum) :
    execDecode s = .next { s with mode := .checksum, phase := .load } := by
  simp [execDecode, h]

theorem execDecode_of_genmac (h : s.cmdreg = wordGenmac) :
    execDecode s = .next { s with mode := .genmac, phase := .load } := by
  simp [execDecode, h, wordChecksum, wordGenmac]

theorem execDecode_of_valmac (h : s.cmdreg = wordValmac) :
    execDecode s = .next { s with mode := .valmac, phase := .parse } := by
  simp [execDecode, h, wordChecksum, wordGenmac, wordValmac]

theorem execDecode_of_attack (h : s.cmdreg = wordAttack) :
    execDecode s = .next { s with mode := .attack, phase := .parse } := by
  simp [execDecode, h, wordChecksum, wordGenmac, wordValmac, wordAttack]

end

/-- Settles O25: one lemma per command word; every other word takes the non-fatal entry, which keeps `MODE`. -/
theorem decodeSelectsModeAndPhase : Obligations.DecodeSelectsModeAndPhase :=
  ⟨decode_phaseCode .decode, fun s =>
    ⟨execDecode_of_checksum, execDecode_of_genmac, execDecode_of_valmac, execDecode_of_attack,
      fun h1 h2 h3 h4 => ⟨execDecode_of_illegal h1 h2 h3 h4, enterNonFatal_mode .usageError s⟩⟩⟩

/-! ### The phase-transition table (46 R191) -/

/-- A next state the result answers is in one of these phases. -/
def WaysOut (r : Result) (phases : List Phase) : Prop := ∀ t, r = .next t → t.phase ∈ phases

theorem WaysOut.of_next {r : Result} {t : State} {phases : List Phase} (h : r = .next t) (ht : t.phase ∈ phases) :
    WaysOut r phases := by
  subst h
  rintro _ ⟨⟩
  exact ht

theorem WaysOut.of_fault {r : Result} {f : Fault} (h : r = .fault f) (phases : List Phase) : WaysOut r phases := by
  subst h
  rintro _ ⟨⟩

theorem execDecode_waysOut (s : State) :
    WaysOut (execDecode s)
      (if s.cmdreg = wordChecksum ∨ s.cmdreg = wordGenmac then [.load]
        else if s.cmdreg = wordValmac ∨ s.cmdreg = wordAttack then [.parse] else [.idle]) := by
  obtain ⟨h, e⟩ | ⟨h, e⟩ | ⟨h, e⟩ | ⟨h, e⟩ | ⟨h1, h2, h3, h4, e⟩ := execDecode_cases s
  · exact .of_next e (by simp [h])
  · exact .of_next e (by simp [h])
  · exact .of_next e (by simp [h, wordChecksum, wordGenmac, wordValmac])
  · exact .of_next e (by simp [h, wordChecksum, wordGenmac, wordAttack])
  · exact .of_next e (by simp [h1, h2, h3, h4])

/-- PARSE goes on to GLUE for `ATTACK` and to LOAD for `VALMAC`, and runs for no other mode. -/
theorem execParse_waysOut {s : State} (hm : s.mode = .valmac ∨ s.mode = .attack) :
    WaysOut (execParse s) (if s.mode = .valmac then [.load, .idle] else [.glue, .idle]) := by
  obtain ⟨_, -, hattack, -, e⟩ | ⟨_, -, hne, e⟩ | ⟨-, e⟩ := execParse_cases s
  · exact .of_next e (by simp [hattack])
  · exact .of_next e (by simp [hm.resolve_right hne])
  · exact .of_next e (by split <;> simp)

theorem execGlue_waysOut (s : State) : WaysOut (execGlue s) [.load, .idle, .fault] := by
  obtain ⟨-, e⟩ | ⟨-, -, e⟩ | ⟨-, -, e⟩ := execGlue_cases s <;> exact .of_next e (by simp)

theorem execLoad_waysOut (s : State) : WaysOut (execLoad s) [.pad, .idle, .fault] := by
  obtain ⟨-, e⟩ | ⟨-, -, e⟩ | ⟨-, -, e⟩ | ⟨-, e⟩ | ⟨-, e⟩ := execLoad_cases s
  · exact .of_next e (by simp)
  · exact .of_next e (by simp)
  · exact .of_next e (by simp)
  · exact .of_next e (by simp)
  · exact .of_fault e _

theorem execPad_waysOut (s : State) : WaysOut (execPad s) [.fetch, .idle, .fault] := by
  obtain ⟨-, e⟩ | ⟨-, -, e⟩ | ⟨-, -, e⟩ := execPad_cases s <;> exact .of_next e (by simp)

/-- Where `BLKIDX` is in range, that it is not yet `NBLK` says that it is below. -/
theorem execFetch_waysOut {s : State} (hidx : s.blkidx ≤ s.nblk) :
    WaysOut (execFetch s) (if s.blkidx < s.nblk then [.sched] else [.finish]) := by
  obtain ⟨hend, e⟩ | ⟨hne, -, e⟩ | ⟨-, -, e⟩ := execFetch_cases s
  · exact .of_next e (by simp [hend])
  · exact .of_next e (by simp [hidx.lt_of_ne hne])
  · exact .of_fault e _

theorem execRound_waysOut (s : State) :
    WaysOut (execRound s) (if s.t.val + 1 < 64 then [.round] else [.fold]) := by
  obtain ⟨hlt, e⟩ | ⟨-, e⟩ := execRound_cases s
  · refine .of_next e ?_
    by_cases hlast : s.t.val + 1 = 64
    · simp [hlast]
    · simp [hlast, show s.t.val + 1 < 64 by omega]
  · exact .of_fault e _

/-- Settles O43: one lemma per phase; SCHED, FOLD and FINISH have one answer, and with `BUSY = 1` the invariant excludes
`IDLE` and `FAULT`. -/
theorem phasesFollowTheTransitionTable : Obligations.PhasesFollowTheTransitionTable := by
  intro s t i hinv hb hi e
  obtain rfl := phaseInstr_of_decode hi
  have hbusy : phaseIsBusy s.phase = true := hinv.busy_phase.symm.trans hb
  revert e t
  cases hp : s.phase with
  | idle => rw [hp] at hbusy; cases hbusy
  | decode => exact execDecode_waysOut s
  | parse => exact execParse_waysOut (hinv.mode_parse hp)
  | glue => exact execGlue_waysOut s
  | load => exact execLoad_waysOut s
  | pad => exact execPad_waysOut s
  | fetch =>
    obtain ⟨-, hidx⟩ := hinv.loop_work (by rw [hp]; rfl)
    exact execFetch_waysOut hidx
  | sched => exact WaysOut.of_next rfl (List.mem_singleton_self _)
  | round => exact execRound_waysOut s
  | fold => exact WaysOut.of_next rfl (List.mem_singleton_self _)
  | finish => exact WaysOut.of_next rfl (List.mem_singleton_self _)
  | fault => rw [hp] at hbusy; cases hbusy

end Sys2Proof.Machine

/-! ## Proofs of the exceptions family and of the reset and hazards family (60_exceptions, 70_reset_and_hazards): the
error entries, and how many steps a running command takes at most -/

namespace Sys2Proof.Machine

/-! ### The error entries (60 R216, R217) -/

/-- Settles O38: both codes are non-fatal, and the entry is that record. -/
theorem nonFatalErrorEntry : Obligations.NonFatalErrorEntry := by
  rintro s _ (rfl | rfl)
  · rfl
  · rfl

/-- Settles O39: both codes are fatal, and the entry is that record. -/
theorem fatalErrorEntry : Obligations.FatalErrorEntry := by
  rintro s _ (rfl | rfl)
  · rfl
  · rfl

/-! ### The phase steps a running command has left (70 R249; 46 R191) -/

/-- The most phase steps until the command ends. A block is FETCH, SCHED, 64 ROUNDs and FOLD, 67 in all; after the last
one come FETCH and FINISH. Before PAD has set `NBLK`, the blocks that fit a buffer count. -/
def stepsLeft (s : State) : Nat :=
  match s.phase with
  | .decode => 7 + 67 * (Config.bufCap / 64)
  | .parse => 6 + 67 * (Config.bufCap / 64)
  | .glue => 5 + 67 * (Config.bufCap / 64)
  | .load => 4 + 67 * (Config.bufCap / 64)
  | .pad => 3 + 67 * (Config.bufCap / 64)
  | .fetch => 2 + 67 * (s.nblk - s.blkidx)
  | .sched => 68 + 67 * (s.nblk - (s.blkidx + 1))
  | .round => 3 + (64 - s.t.val) + 67 * (s.nblk - (s.blkidx + 1))
  | .fold => 3 + 67 * (s.nblk - (s.blkidx + 1))
  | .finish => 1
  | .idle => 0
  | .fault => 0

/-- In the block loop there are no more blocks than fit a buffer. -/
theorem State.Inv.nblk_le {s : State} (h : s.Inv) (hl : phaseIsLoop s.phase = true) : s.nblk ≤ Config.bufCap / 64 := by
  obtain ⟨-, -, -, -, hfits, -⟩ := h.memory
  obtain ⟨hwork, -⟩ := h.loop_work hl
  omega

/-- From every phase the command ends within the steps that 70 R249 counts. -/
theorem stepsLeft_le {s : State} (h : s.Inv) : stepsLeft s ≤ 7 + 67 * (Config.bufCap / 64) := by
  have hone : 1 ≤ Config.bufCap / 64 := Nat.div_pos bufCap_ge (by decide)
  cases hp : s.phase with
  | fetch | sched | round | fold =>
    have hblocks := h.nblk_le (by rw [hp]; rfl)
    simp only [stepsLeft, hp]
    omega
  | idle | decode | parse | glue | load | pad | finish | fault =>
    simp only [stepsLeft, hp]
    omega

/-! ### Each phase of a running command leaves fewer steps -/

/-- A next state the result answers has fewer steps left than `s` and leaves the host's list as it is. -/
def Advances (s : State) (r : Result) : Prop := ∀ t, r = .next t → stepsLeft t < stepsLeft s ∧ t.pending = s.pending

theorem Advances.of_next {s t : State} {r : Result} (e : r = .next t) (hsteps : stepsLeft t < stepsLeft s)
    (hpending : t.pending = s.pending) : Advances s r := by
  subst e
  rintro _ ⟨⟩
  exact ⟨hsteps, hpending⟩

theorem Advances.of_fault {r : Result} {f : Fault} (e : r = .fault f) (s : State) : Advances s r := by
  subst e
  rintro _ ⟨⟩

section
variable {s : State}

theorem execDecode_advances (hp : s.phase = .decode) : Advances s (execDecode s) := by
  obtain ⟨-, e⟩ | ⟨-, e⟩ | ⟨-, e⟩ | ⟨-, e⟩ | ⟨-, -, -, -, e⟩ := execDecode_cases s <;>
    exact .of_next e (by simp [stepsLeft, hp]) rfl

theorem execParse_advances (hp : s.phase = .parse) : Advances s (execParse s) := by
  obtain ⟨_, -, -, -, e⟩ | ⟨_, -, -, e⟩ | ⟨-, e⟩ := execParse_cases s <;>
    exact .of_next e (by simp [stepsLeft, hp]) rfl

theorem execGlue_advances (hp : s.phase = .glue) : Advances s (execGlue s) := by
  obtain ⟨-, e⟩ | ⟨-, -, e⟩ | ⟨-, -, e⟩ := execGlue_cases s <;> exact .of_next e (by simp [stepsLeft, hp]) rfl

theorem execLoad_advances (hp : s.phase = .load) : Advances s (execLoad s) := by
  obtain ⟨-, e⟩ | ⟨-, -, e⟩ | ⟨-, -, e⟩ | ⟨-, e⟩ | ⟨-, e⟩ := execLoad_cases s
  · exact .of_next e (by simp [stepsLeft, hp]) rfl
  · exact .of_next e (by simp [stepsLeft, hp]) rfl
  · exact .of_next e (by simp [stepsLeft, hp]) rfl
  · exact .of_next e (by simp [stepsLeft, hp]) rfl
  · exact .of_fault e s

/-- A padded message that fits `WORK` has no more blocks than a buffer has room for. -/
theorem execPad_advances (hp : s.phase = .pad) : Advances s (execPad s) := by
  obtain ⟨-, e⟩ | ⟨-, -, e⟩ | ⟨-, hfit, e⟩ := execPad_cases s
  · exact .of_next e (by simp [stepsLeft, hp]) rfl
  · exact .of_next e (by simp [stepsLeft, hp]) rfl
  · have hblocks := Nat.div_le_div_right (c := 64) hfit
    exact .of_next e (by simp only [stepsLeft, hp]; omega) rfl

theorem execFetch_advances (hp : s.phase = .fetch) (hidx : s.blkidx ≤ s.nblk) : Advances s (execFetch s) := by
  obtain ⟨-, e⟩ | ⟨hne, -, e⟩ | ⟨-, -, e⟩ := execFetch_cases s
  · exact .of_next e (by simp only [stepsLeft, hp]; omega) rfl
  · exact .of_next e (by simp only [stepsLeft, hp]; omega) rfl
  · exact .of_fault e s

theorem execSched_advances (hp : s.phase = .sched) : Advances s (execSched s) :=
  .of_next rfl (by simp [stepsLeft, hp]) rfl

/-- The last round leads to FOLD, any other one to the next round. -/
theorem execRound_advances (hp : s.phase = .round) : Advances s (execRound s) := by
  obtain ⟨hlt, e⟩ | ⟨-, e⟩ := execRound_cases s
  · refine .of_next e ?_ rfl
    by_cases hlast : s.t.val + 1 = 64
    · simp only [stepsLeft, hp, hlast, if_true]
      omega
    · simp only [stepsLeft, hp, hlast, if_false]
      omega
  · exact .of_fault e s

theorem execFold_advances (hp : s.phase = .fold) : Advances s (execFold s) :=
  .of_next rfl (by simp [stepsLeft, hp]) rfl

theorem execFinish_advances (hp : s.phase = .finish) : Advances s (execFinish s) :=
  .of_next (execFinish_eq s) (by simp [stepsLeft, hp, finished]) rfl

/-- The operation of the phase that a running command is in advances it. -/
theorem exec_phaseInstr_advances (h : s.Inv) (hb : s.busy = true) : Advances s (exec (phaseInstr s.phase) s) := by
  have hbusy : phaseIsBusy s.phase = true := h.busy_phase.symm.trans hb
  cases hp : s.phase with
  | idle => rw [hp] at hbusy; cases hbusy
  | decode => exact execDecode_advances hp
  | parse => exact execParse_advances hp
  | glue => exact execGlue_advances hp
  | load => exact execLoad_advances hp
  | pad => exact execPad_advances hp
  | fetch =>
    obtain ⟨-, hidx⟩ := h.loop_work (by rw [hp]; rfl)
    exact execFetch_advances hp hidx
  | sched => exact execSched_advances hp
  | round => exact execRound_advances hp
  | fold => exact execFold_advances hp
  | finish => exact execFinish_advances hp
  | fault => rw [hp] at hbusy; cases hbusy

/-! ### Every running command ends (70 R249) -/

/-- By strong induction on the steps left: a phase of a running command answers a state with fewer, and keeps the
invariant and the waiting host. -/
theorem run_ends_within_stepsLeft (h : s.Inv) (hwaits : hostWaits s.pending = true) :
    ∃ n t, n ≤ stepsLeft s ∧ run n s = .next t ∧ t.busy = false := by
  induction hk : stepsLeft s using Nat.strong_induction_on generalizing s with
  | h k ih =>
    subst hk
    cases hb : s.busy with
    | false => exact ⟨0, s, Nat.zero_le _, rfl, hb⟩
    | true =>
      obtain ⟨u, hu⟩ := exec_phaseInstr_answers h
      obtain ⟨hsteps, hpending⟩ := exec_phaseInstr_advances h hb u hu
      obtain ⟨n, t, hn, hrun, ht⟩ :=
        ih _ hsteps (exec_phaseInstr_keepsInv h u hu) (by rwa [hpending]) rfl
      exact ⟨1 + n, t, by omega, run_trans (run_phase hb hwaits hu) hrun, ht⟩

end

/-- Settles O59: the steps left bound the run (`run_ends_within_stepsLeft`), and 70 R249's count bounds them
(`stepsLeft_le`). -/
theorem everyRunningCommandEnds : Obligations.EveryRunningCommandEnds := by
  intro s h _ hwaits
  obtain ⟨n, t, hn, hrun, ht⟩ := run_ends_within_stepsLeft h hwaits
  exact ⟨n, t, hn.trans (stepsLeft_le h), hrun, ht⟩

end Sys2Proof.Machine
